-- ==== Sys2Proof/Word.lean ====
section
/-! DEFINITION. The word types of the block (rule R6): bytes, 16-bit CPU words, 14-bit PPU bus
addresses, 15-bit scroll registers, and the one shape every memory of the block has. -/

namespace Sys2Proof

/-- An 8-bit register, bus value or memory byte (rule R6). -/
abbrev Byte := BitVec 8

/-- A 16-bit CPU address or program counter (rules R26, R60). -/
abbrev Word := BitVec 16

/-- A 14-bit address on the PPU bus (rules R60, R78). -/
abbrev PpuAddr := BitVec 14

/-- The 15-bit scroll registers `v` and `t` of the PPU (rule R35). -/
abbrev Scroll := BitVec 15

/-- A 32-bit RGBA word of the pixel buffer (rule R40, decision D41). -/
abbrev Rgba := BitVec 32

/-- A memory of `w`-bit cells: index and value pairs in the canonical form of `storeWf`. -/
abbrev Store (w : Nat) := List (Nat × BitVec w)

/-- A byte memory: RAM, palette, OAM, nametable RAM, PRG and CHR memories. -/
abbrev Memory := List Host.Cell

end Sys2Proof
end

