-- ==== Sys2Proof/Syntax.lean ====
section
/-! DEFINITION. The syntax of the instruction set (rules R110 to R114): the 13 addressing modes, an
operand of each, the 56 mnemonics, and `Instr`, one constructor per instruction. An instruction whose
rows differ only in their addressing mode takes the mode as an `Operand`; one with a single mode takes
that mode's operand byte or word directly. -/

namespace Sys2Proof

/-- The 13 addressing modes (rules R112, R141 to R153). -/
inductive Mode where
  | implied | accumulator | immediate | zeroPage | zeroPageX | zeroPageY | relative
  | absolute | absoluteX | absoluteY | indirect | indirectX | indirectY
  deriving DecidableEq, Repr

/-- An addressing mode with its assembled operand bytes (rules R112, R113). -/
inductive Operand where
  /-- no operand (rule R141) -/
  | implied
  /-- the accumulator (rule R142) -/
  | accumulator
  /-- the operand byte itself (rule R143) -/
  | immediate (value : Byte)
  /-- an address in page 0 (rule R144) -/
  | zeroPage (address : Byte)
  /-- a base in page 0, X added modulo 256 (rule R145) -/
  | zeroPageX (base : Byte)
  /-- a base in page 0, Y added modulo 256 (rule R146) -/
  | zeroPageY (base : Byte)
  /-- a signed branch offset (rule R147) -/
  | relative (offset : Byte)
  /-- a 16-bit address (rule R148) -/
  | absolute (address : Word)
  /-- a 16-bit base, X added (rule R149) -/
  | absoluteX (base : Word)
  /-- a 16-bit base, Y added (rule R150) -/
  | absoluteY (base : Word)
  /-- the address of a 16-bit pointer (rule R151) -/
  | indirect (pointer : Word)
  /-- the base of a page-0 pointer table, X added modulo 256 (rule R152) -/
  | indirectX (base : Byte)
  /-- the address of a page-0 pointer, Y added to the pointer's value (rule R153) -/
  | indirectY (pointer : Byte)
  deriving DecidableEq, Repr

/-- The addressing mode of an operand. -/
def Operand.mode : Operand → Mode
  | .implied => .implied
  | .accumulator => .accumulator
  | .immediate _ => .immediate
  | .zeroPage _ => .zeroPage
  | .zeroPageX _ => .zeroPageX
  | .zeroPageY _ => .zeroPageY
  | .relative _ => .relative
  | .absolute _ => .absolute
  | .absoluteX _ => .absoluteX
  | .absoluteY _ => .absoluteY
  | .indirect _ => .indirect
  | .indirectX _ => .indirectX
  | .indirectY _ => .indirectY

/-- The 56 mnemonics (rule R114). -/
inductive Mnemonic where
  | lda | ldx | ldy | sta | stx | sty
  | tax | tay | txa | tya | tsx | txs
  | pha | php | pla | plp
  | adc | sbc | cmp | cpx | cpy
  | inc | inx | iny | dec | dex | dey
  | and | ora | eor | bit
  | asl | lsr | rol | ror
  | bcc | bcs | beq | bne | bmi | bpl | bvc | bvs
  | jmp | jsr | rts
  | clc | sec | cli | sei | clv | cld | sed
  | nop | brk | rti
  deriving DecidableEq, Repr

/-- The instructions (rule R114), and `illegal` for the 105 opcode bytes of rule R115, which the
opcode table lists under the one mnemonic "(illegal)". -/
inductive Instr where
  | lda (src : Operand)
  | ldx (src : Operand)
  | ldy (src : Operand)
  | sta (dst : Operand)
  | stx (dst : Operand)
  | sty (dst : Operand)
  | tax
  | tay
  | txa
  | tya
  | tsx
  | txs
  | pha
  | php
  | pla
  | plp
  | adc (src : Operand)
  | sbc (src : Operand)
  | cmp (src : Operand)
  | cpx (src : Operand)
  | cpy (src : Operand)
  | inc (dst : Operand)
  | inx
  | iny
  | dec (dst : Operand)
  | dex
  | dey
  | and (src : Operand)
  | ora (src : Operand)
  | eor (src : Operand)
  | bit (src : Operand)
  | asl (dst : Operand)
  | lsr (dst : Operand)
  | rol (dst : Operand)
  | ror (dst : Operand)
  | bcc (offset : Byte)
  | bcs (offset : Byte)
  | beq (offset : Byte)
  | bne (offset : Byte)
  | bmi (offset : Byte)
  | bpl (offset : Byte)
  | bvc (offset : Byte)
  | bvs (offset : Byte)
  | jmp (target : Operand)
  | jsr (target : Word)
  | rts
  | clc
  | sec
  | cli
  | sei
  | clv
  | cld
  | sed
  | nop
  | brk
  | rti
  | illegal (opcode : Byte)
  deriving DecidableEq, Repr

/-- The mnemonic and operand of an instruction; none for an illegal opcode byte. -/
def Instr.shape : Instr → Option (Mnemonic × Operand)
  | .lda o => some (.lda, o)
  | .ldx o => some (.ldx, o)
  | .ldy o => some (.ldy, o)
  | .sta o => some (.sta, o)
  | .stx o => some (.stx, o)
  | .sty o => some (.sty, o)
  | .tax => some (.tax, .implied)
  | .tay => some (.tay, .implied)
  | .txa => some (.txa, .implied)
  | .tya => some (.tya, .implied)
  | .tsx => some (.tsx, .implied)
  | .txs => some (.txs, .implied)
  | .pha => some (.pha, .implied)
  | .php => some (.php, .implied)
  | .pla => some (.pla, .implied)
  | .plp => some (.plp, .implied)
  | .adc o => some (.adc, o)
  | .sbc o => some (.sbc, o)
  | .cmp o => some (.cmp, o)
  | .cpx o => some (.cpx, o)
  | .cpy o => some (.cpy, o)
  | .inc o => some (.inc, o)
  | .inx => some (.inx, .implied)
  | .iny => some (.iny, .implied)
  | .dec o => some (.dec, o)
  | .dex => some (.dex, .implied)
  | .dey => some (.dey, .implied)
  | .and o => some (.and, o)
  | .ora o => some (.ora, o)
  | .eor o => some (.eor, o)
  | .bit o => some (.bit, o)
  | .asl o => some (.asl, o)
  | .lsr o => some (.lsr, o)
  | .rol o => some (.rol, o)
  | .ror o => some (.ror, o)
  | .bcc off => some (.bcc, .relative off)
  | .bcs off => some (.bcs, .relative off)
  | .beq off => some (.beq, .relative off)
  | .bne off => some (.bne, .relative off)
  | .bmi off => some (.bmi, .relative off)
  | .bpl off => some (.bpl, .relative off)
  | .bvc off => some (.bvc, .relative off)
  | .bvs off => some (.bvs, .relative off)
  | .jmp o => some (.jmp, o)
  | .jsr t => some (.jsr, .absolute t)
  | .rts => some (.rts, .implied)
  | .clc => some (.clc, .implied)
  | .sec => some (.sec, .implied)
  | .cli => some (.cli, .implied)
  | .sei => some (.sei, .implied)
  | .clv => some (.clv, .implied)
  | .cld => some (.cld, .implied)
  | .sed => some (.sed, .implied)
  | .nop => some (.nop, .implied)
  | .brk => some (.brk, .implied)
  | .rti => some (.rti, .implied)
  | .illegal _ => none

end Sys2Proof
end

