-- ==== Sys2Proof/Decode.lean ====
section
/-! DEFINITION. The opcode map (rule R114), the decoder and the encoder. Decoding is a table lookup on
the opcode byte (rules R110, R116); an illegal byte decodes to `Instr.illegal` (rule R115), so the only
bytes refused are those that end too early, and they are refused by name. -/

namespace Sys2Proof

/-- The 16-bit value of two bytes, low byte first in memory (rules R72, R113). -/
def wordOf (lo hi : Byte) : Word := hi ++ lo

/-- Bits 7:0 of a word (notation section 6 of 00_scope.md). -/
def loByte (a : Word) : Byte := a.extractLsb' 0 8

/-- Bits 15:8 of a word: its page (notation section 6 of 00_scope.md). -/
def hiByte (a : Word) : Byte := a.extractLsb' 8 8

/-- A row of the opcode map (rule R111). -/
structure Row where
  opcode      : Byte
  mnemonic    : Mnemonic
  mode        : Mode
  baseCycles  : Nat
  pagePenalty : Bool
  deriving DecidableEq, Repr

/-- Rows 0x00 to 0x0F of rule R114. -/
def opcodeRows0 : List Row :=
  [⟨0x00, .brk, .implied, 7, false⟩,
   ⟨0x01, .ora, .indirectX, 6, false⟩,
   ⟨0x05, .ora, .zeroPage, 3, false⟩,
   ⟨0x06, .asl, .zeroPage, 5, false⟩,
   ⟨0x08, .php, .implied, 3, false⟩,
   ⟨0x09, .ora, .immediate, 2, false⟩,
   ⟨0x0A, .asl, .accumulator, 2, false⟩,
   ⟨0x0D, .ora, .absolute, 4, false⟩,
   ⟨0x0E, .asl, .absolute, 6, false⟩]

/-- Rows 0x10 to 0x1F of rule R114. -/
def opcodeRows1 : List Row :=
  [⟨0x10, .bpl, .relative, 2, false⟩,
   ⟨0x11, .ora, .indirectY, 5, true⟩,
   ⟨0x15, .ora, .zeroPageX, 4, false⟩,
   ⟨0x16, .asl, .zeroPageX, 6, false⟩,
   ⟨0x18, .clc, .implied, 2, false⟩,
   ⟨0x19, .ora, .absoluteY, 4, true⟩,
   ⟨0x1D, .ora, .absoluteX, 4, true⟩,
   ⟨0x1E, .asl, .absoluteX, 7, false⟩]

/-- Rows 0x20 to 0x2F of rule R114. -/
def opcodeRows2 : List Row :=
  [⟨0x20, .jsr, .absolute, 6, false⟩,
   ⟨0x21, .and, .indirectX, 6, false⟩,
   ⟨0x24, .bit, .zeroPage, 3, false⟩,
   ⟨0x25, .and, .zeroPage, 3, false⟩,
   ⟨0x26, .rol, .zeroPage, 5, false⟩,
   ⟨0x28, .plp, .implied, 4, false⟩,
   ⟨0x29, .and, .immediate, 2, false⟩,
   ⟨0x2A, .rol, .accumulator, 2, false⟩,
   ⟨0x2C, .bit, .absolute, 4, false⟩,
   ⟨0x2D, .and, .absolute, 4, false⟩,
   ⟨0x2E, .rol, .absolute, 6, false⟩]

/-- Rows 0x30 to 0x3F of rule R114. -/
def opcodeRows3 : List Row :=
  [⟨0x30, .bmi, .relative, 2, false⟩,
   ⟨0x31, .and, .indirectY, 5, true⟩,
   ⟨0x35, .and, .zeroPageX, 4, false⟩,
   ⟨0x36, .rol, .zeroPageX, 6, false⟩,
   ⟨0x38, .sec, .implied, 2, false⟩,
   ⟨0x39, .and, .absoluteY, 4, true⟩,
   ⟨0x3D, .and, .absoluteX, 4, true⟩,
   ⟨0x3E, .rol, .absoluteX, 7, false⟩]

/-- Rows 0x40 to 0x4F of rule R114. -/
def opcodeRows4 : List Row :=
  [⟨0x40, .rti, .implied, 6, false⟩,
   ⟨0x41, .eor, .indirectX, 6, false⟩,
   ⟨0x45, .eor, .zeroPage, 3, false⟩,
   ⟨0x46, .lsr, .zeroPage, 5, false⟩,
   ⟨0x48, .pha, .implied, 3, false⟩,
   ⟨0x49, .eor, .immediate, 2, false⟩,
   ⟨0x4A, .lsr, .accumulator, 2, false⟩,
   ⟨0x4C, .jmp, .absolute, 3, false⟩,
   ⟨0x4D, .eor, .absolute, 4, false⟩,
   ⟨0x4E, .lsr, .absolute, 6, false⟩]

/-- Rows 0x50 to 0x5F of rule R114. -/
def opcodeRows5 : List Row :=
  [⟨0x50, .bvc, .relative, 2, false⟩,
   ⟨0x51, .eor, .indirectY, 5, true⟩,
   ⟨0x55, .eor, .zeroPageX, 4, false⟩,
   ⟨0x56, .lsr, .zeroPageX, 6, false⟩,
   ⟨0x58, .cli, .implied, 2, false⟩,
   ⟨0x59, .eor, .absoluteY, 4, true⟩,
   ⟨0x5D, .eor, .absoluteX, 4, true⟩,
   ⟨0x5E, .lsr, .absoluteX, 7, false⟩]

/-- Rows 0x60 to 0x6F of rule R114. -/
def opcodeRows6 : List Row :=
  [⟨0x60, .rts, .implied, 6, false⟩,
   ⟨0x61, .adc, .indirectX, 6, false⟩,
   ⟨0x65, .adc, .zeroPage, 3, false⟩,
   ⟨0x66, .ror, .zeroPage, 5, false⟩,
   ⟨0x68, .pla, .implied, 4, false⟩,
   ⟨0x69, .adc, .immediate, 2, false⟩,
   ⟨0x6A, .ror, .accumulator, 2, false⟩,
   ⟨0x6C, .jmp, .indirect, 5, false⟩,
   ⟨0x6D, .adc, .absolute, 4, false⟩,
   ⟨0x6E, .ror, .absolute, 6, false⟩]

/-- Rows 0x70 to 0x7F of rule R114. -/
def opcodeRows7 : List Row :=
  [⟨0x70, .bvs, .relative, 2, false⟩,
   ⟨0x71, .adc, .indirectY, 5, true⟩,
   ⟨0x75, .adc, .zeroPageX, 4, false⟩,
   ⟨0x76, .ror, .zeroPageX, 6, false⟩,
   ⟨0x78, .sei, .implied, 2, false⟩,
   ⟨0x79, .adc, .absoluteY, 4, true⟩,
   ⟨0x7D, .adc, .absoluteX, 4, true⟩,
   ⟨0x7E, .ror, .absoluteX, 7, false⟩]

/-- Rows 0x80 to 0x8F of rule R114. -/
def opcodeRows8 : List Row :=
  [⟨0x81, .sta, .indirectX, 6, false⟩,
   ⟨0x84, .sty, .zeroPage, 3, false⟩,
   ⟨0x85, .sta, .zeroPage, 3, false⟩,
   ⟨0x86, .stx, .zeroPage, 3, false⟩,
   ⟨0x88, .dey, .implied, 2, false⟩,
   ⟨0x8A, .txa, .implied, 2, false⟩,
   ⟨0x8C, .sty, .absolute, 4, false⟩,
   ⟨0x8D, .sta, .absolute, 4, false⟩,
   ⟨0x8E, .stx, .absolute, 4, false⟩]

/-- Rows 0x90 to 0x9F of rule R114. -/
def opcodeRows9 : List Row :=
  [⟨0x90, .bcc, .relative, 2, false⟩,
   ⟨0x91, .sta, .indirectY, 6, false⟩,
   ⟨0x94, .sty, .zeroPageX, 4, false⟩,
   ⟨0x95, .sta, .zeroPageX, 4, false⟩,
   ⟨0x96, .stx, .zeroPageY, 4, false⟩,
   ⟨0x98, .tya, .implied, 2, false⟩,
   ⟨0x99, .sta, .absoluteY, 5, false⟩,
   ⟨0x9A, .txs, .implied, 2, false⟩,
   ⟨0x9D, .sta, .absoluteX, 5, false⟩]

/-- Rows 0xA0 to 0xAF of rule R114. -/
def opcodeRowsA : List Row :=
  [⟨0xA0, .ldy, .immediate, 2, false⟩,
   ⟨0xA1, .lda, .indirectX, 6, false⟩,
   ⟨0xA2, .ldx, .immediate, 2, false⟩,
   ⟨0xA4, .ldy, .zeroPage, 3, false⟩,
   ⟨0xA5, .lda, .zeroPage, 3, false⟩,
   ⟨0xA6, .ldx, .zeroPage, 3, false⟩,
   ⟨0xA8, .tay, .implied, 2, false⟩,
   ⟨0xA9, .lda, .immediate, 2, false⟩,
   ⟨0xAA, .tax, .implied, 2, false⟩,
   ⟨0xAC, .ldy, .absolute, 4, false⟩,
   ⟨0xAD, .lda, .absolute, 4, false⟩,
   ⟨0xAE, .ldx, .absolute, 4, false⟩]

/-- Rows 0xB0 to 0xBF of rule R114. -/
def opcodeRowsB : List Row :=
  [⟨0xB0, .bcs, .relative, 2, false⟩,
   ⟨0xB1, .lda, .indirectY, 5, true⟩,
   ⟨0xB4, .ldy, .zeroPageX, 4, false⟩,
   ⟨0xB5, .lda, .zeroPageX, 4, false⟩,
   ⟨0xB6, .ldx, .zeroPageY, 4, false⟩,
   ⟨0xB8, .clv, .implied, 2, false⟩,
   ⟨0xB9, .lda, .absoluteY, 4, true⟩,
   ⟨0xBA, .tsx, .implied, 2, false⟩,
   ⟨0xBC, .ldy, .absoluteX, 4, true⟩,
   ⟨0xBD, .lda, .absoluteX, 4, true⟩,
   ⟨0xBE, .ldx, .absoluteY, 4, true⟩]

/-- Rows 0xC0 to 0xCF of rule R114. -/
def opcodeRowsC : List Row :=
  [⟨0xC0, .cpy, .immediate, 2, false⟩,
   ⟨0xC1, .cmp, .indirectX, 6, false⟩,
   ⟨0xC4, .cpy, .zeroPage, 3, false⟩,
   ⟨0xC5, .cmp, .zeroPage, 3, false⟩,
   ⟨0xC6, .dec, .zeroPage, 5, false⟩,
   ⟨0xC8, .iny, .implied, 2, false⟩,
   ⟨0xC9, .cmp, .immediate, 2, false⟩,
   ⟨0xCA, .dex, .implied, 2, false⟩,
   ⟨0xCC, .cpy, .absolute, 4, false⟩,
   ⟨0xCD, .cmp, .absolute, 4, false⟩,
   ⟨0xCE, .dec, .absolute, 6, false⟩]

/-- Rows 0xD0 to 0xDF of rule R114. -/
def opcodeRowsD : List Row :=
  [⟨0xD0, .bne, .relative, 2, false⟩,
   ⟨0xD1, .cmp, .indirectY, 5, true⟩,
   ⟨0xD5, .cmp, .zeroPageX, 4, false⟩,
   ⟨0xD6, .dec, .zeroPageX, 6, false⟩,
   ⟨0xD8, .cld, .implied, 2, false⟩,
   ⟨0xD9, .cmp, .absoluteY, 4, true⟩,
   ⟨0xDD, .cmp, .absoluteX, 4, true⟩,
   ⟨0xDE, .dec, .absoluteX, 7, false⟩]

/-- Rows 0xE0 to 0xEF of rule R114. -/
def opcodeRowsE : List Row :=
  [⟨0xE0, .cpx, .immediate, 2, false⟩,
   ⟨0xE1, .sbc, .indirectX, 6, false⟩,
   ⟨0xE4, .cpx, .zeroPage, 3, false⟩,
   ⟨0xE5, .sbc, .zeroPage, 3, false⟩,
   ⟨0xE6, .inc, .zeroPage, 5, false⟩,
   ⟨0xE8, .inx, .implied, 2, false⟩,
   ⟨0xE9, .sbc, .immediate, 2, false⟩,
   ⟨0xEA, .nop, .implied, 2, false⟩,
   ⟨0xEC, .cpx, .absolute, 4, false⟩,
   ⟨0xED, .sbc, .absolute, 4, false⟩,
   ⟨0xEE, .inc, .absolute, 6, false⟩]

/-- Rows 0xF0 to 0xFF of rule R114. -/
def opcodeRowsF : List Row :=
  [⟨0xF0, .beq, .relative, 2, false⟩,
   ⟨0xF1, .sbc, .indirectY, 5, true⟩,
   ⟨0xF5, .sbc, .zeroPageX, 4, false⟩,
   ⟨0xF6, .inc, .zeroPageX, 6, false⟩,
   ⟨0xF8, .sed, .implied, 2, false⟩,
   ⟨0xF9, .sbc, .absoluteY, 4, true⟩,
   ⟨0xFD, .sbc, .absoluteX, 4, true⟩,
   ⟨0xFE, .inc, .absoluteX, 7, false⟩]

/-- The 151 legal rows of rule R114. -/
def opcodeTable : List Row :=
  opcodeRows0 ++ opcodeRows1 ++ opcodeRows2 ++ opcodeRows3 ++ opcodeRows4 ++ opcodeRows5 ++ opcodeRows6 ++ opcodeRows7 ++
  opcodeRows8 ++ opcodeRows9 ++ opcodeRowsA ++ opcodeRowsB ++ opcodeRowsC ++ opcodeRowsD ++ opcodeRowsE ++ opcodeRowsF

/-- The row of an opcode byte; none for the 105 illegal bytes (rules R110, R115). -/
def rowAt (opcode : Byte) : Option Row := opcodeTable.find? (fun r => r.opcode == opcode)

/-- The row of a mnemonic in an addressing mode; none where the map has no such row. -/
def rowFor (mn : Mnemonic) (m : Mode) : Option Row :=
  opcodeTable.find? (fun r => r.mnemonic == mn && r.mode == m)

/-- How many operand bytes follow the opcode (rule R112). -/
def operandLength : Mode → Nat
  | .implied | .accumulator => 0
  | .immediate | .zeroPage | .zeroPageX | .zeroPageY | .relative | .indirectX | .indirectY => 1
  | .absolute | .absoluteX | .absoluteY | .indirect => 2

/-- The operand a mode assembles from the bytes after the opcode (rules R112, R113). -/
def assemble (m : Mode) (op1 op2 : Byte) : Operand :=
  match m with
  | .implied => .implied
  | .accumulator => .accumulator
  | .immediate => .immediate op1
  | .zeroPage => .zeroPage op1
  | .zeroPageX => .zeroPageX op1
  | .zeroPageY => .zeroPageY op1
  | .relative => .relative op1
  | .absolute => .absolute (wordOf op1 op2)
  | .absoluteX => .absoluteX (wordOf op1 op2)
  | .absoluteY => .absoluteY (wordOf op1 op2)
  | .indirect => .indirect (wordOf op1 op2)
  | .indirectX => .indirectX op1
  | .indirectY => .indirectY op1

/-- The operand byte of a one-byte operand: the offset of a branch. -/
def Operand.offset : Operand → Byte
  | .relative off => off
  | _ => 0

/-- The operand word of an Absolute operand: the target of JSR. -/
def Operand.target : Operand → Word
  | .absolute a => a
  | _ => 0

/-- The instruction of a row's mnemonic with its operand. -/
def instrOf (mn : Mnemonic) (o : Operand) : Instr :=
  match mn with
  | .lda => .lda o
  | .ldx => .ldx o
  | .ldy => .ldy o
  | .sta => .sta o
  | .stx => .stx o
  | .sty => .sty o
  | .tax => .tax
  | .tay => .tay
  | .txa => .txa
  | .tya => .tya
  | .tsx => .tsx
  | .txs => .txs
  | .pha => .pha
  | .php => .php
  | .pla => .pla
  | .plp => .plp
  | .adc => .adc o
  | .sbc => .sbc o
  | .cmp => .cmp o
  | .cpx => .cpx o
  | .cpy => .cpy o
  | .inc => .inc o
  | .inx => .inx
  | .iny => .iny
  | .dec => .dec o
  | .dex => .dex
  | .dey => .dey
  | .and => .and o
  | .ora => .ora o
  | .eor => .eor o
  | .bit => .bit o
  | .asl => .asl o
  | .lsr => .lsr o
  | .rol => .rol o
  | .ror => .ror o
  | .bcc => .bcc o.offset
  | .bcs => .bcs o.offset
  | .beq => .beq o.offset
  | .bne => .bne o.offset
  | .bmi => .bmi o.offset
  | .bpl => .bpl o.offset
  | .bvc => .bvc o.offset
  | .bvs => .bvs o.offset
  | .jmp => .jmp o
  | .jsr => .jsr o.target
  | .rts => .rts
  | .clc => .clc
  | .sec => .sec
  | .cli => .cli
  | .sei => .sei
  | .clv => .clv
  | .cld => .cld
  | .sed => .sed
  | .nop => .nop
  | .brk => .brk
  | .rti => .rti

/-- The instruction an opcode byte and the two bytes after it stand for; a shorter instruction ignores
the bytes it does not have (rules R110, R116). -/
def instrAt (opcode op1 op2 : Byte) : Instr :=
  match rowAt opcode with
  | none => .illegal opcode
  | some r => instrOf r.mnemonic (assemble r.mode op1 op2)

/-- The number of bytes after an opcode byte (rule R116); an illegal byte stands alone (rule R115). -/
def operandBytesAfter (opcode : Byte) : Nat :=
  match rowAt opcode with
  | none => 0
  | some r => operandLength r.mode

/-- Why bytes do not decode. -/
inductive DecodeError where
  /-- There is no opcode byte. -/
  | noBytes
  /-- The bytes end before the operand bytes of this opcode do. -/
  | truncated (opcode : Byte)
  deriving DecidableEq, Repr

/-- Decode the instruction at the front of a byte list, with the bytes that follow it (rule R116). -/
def decode (bytes : List Byte) : Except DecodeError (Instr × List Byte) :=
  match bytes with
  | [] => .error .noBytes
  | opcode :: rest =>
    match operandBytesAfter opcode, rest with
    | 0, rest => .ok (instrAt opcode 0 0, rest)
    | 1, op1 :: rest => .ok (instrAt opcode op1 0, rest)
    | 2, op1 :: op2 :: rest => .ok (instrAt opcode op1 op2, rest)
    | _, _ => .error (.truncated opcode)

/-- The operand bytes of an operand in memory order (rules R112, R113). -/
def operandBytes : Operand → List Byte
  | .implied | .accumulator => []
  | .immediate b | .zeroPage b | .zeroPageX b | .zeroPageY b | .relative b | .indirectX b
  | .indirectY b => [b]
  | .absolute a | .absoluteX a | .absoluteY a | .indirect a => [loByte a, hiByte a]

/-- The bytes of an instruction in memory order (rules R110, R114); an instruction the map has no row
for has none. -/
def encode (i : Instr) : List Byte :=
  match i, i.shape with
  | .illegal b, _ => [b]
  | _, some (mn, o) =>
    match rowFor mn o.mode with
    | some r => r.opcode :: operandBytes o
    | none => []
  | _, none => []

/-- The bytes of an instruction numbered as spec/opcode_table.json numbers them: bit 0 is the least
significant bit of the first byte, and every bit above `nbits` is 0. -/
def tableWordBytes (nbits w : Nat) : List Byte :=
  let u := w % 2 ^ nbits
  [BitVec.ofNat 8 u, BitVec.ofNat 8 (u / 2 ^ 8), BitVec.ofNat 8 (u / 2 ^ 16)]

/-- What the decoder reads from an instruction whose bits are `w`. -/
def decodeTableWord (nbits w : Nat) : Option Instr :=
  match decode (tableWordBytes nbits w) with
  | .ok (i, _) => some i
  | .error _ => none

end Sys2Proof
end

