-- ==== Sys2Proof/Config.lean ====
section
/-! DEFINITION. The implementation parameters of rule R6 that are OPEN: what a machine is given
before power-on. They are arguments of `powerOn` (Machine/Loader.lean), never constants of the model. -/

namespace Sys2Proof

/-- The supported mapper ids (rules R6, R342). -/
inductive MapperId where
  | m000 | m001 | m002 | m003 | m004 | m007 | m011 | m066
  deriving DecidableEq, Repr

/-- The mirroring modes of rule R346. A cartridge header gives only the first two (rule R6). -/
inductive Mirroring where
  | horizontal | vertical | singleLower | singleUpper
  deriving DecidableEq, Repr

/-- The ROM formats a header can name (rule R341). Only iNES loads (rule R342). -/
inductive RomFormat where
  | iNES | nes20 | archaic
  deriving DecidableEq, Repr

/-- The TV systems a header can name (rule R341). Only NTSC loads (rule R342). -/
inductive TvSystem where
  | ntsc | pal
  deriving DecidableEq, Repr

/-- The OPEN parameters of rule R6: the cartridge as the ROM loader hands it over (rule R341), the
power-on contents of every memory (decision D23), the colour table (decision D41) and the button
masks. `prgRamUnits = 0` means one unit (rule R341). A memory's unlisted cells are 0. -/
structure Parameters where
  mapperId      : MapperId
  format        : RomFormat
  tvSystem      : TvSystem
  fourScreen    : Bool
  mirroring     : Mirroring
  prgUnits      : Nat
  chrUnits      : Nat
  prgRamUnits   : Nat
  prgRom        : Memory
  chrRom        : Memory
  ramInit       : Memory
  oamInit       : Memory
  paletteInit   : Memory
  prgRamInit    : Memory
  chrRamInit    : Memory
  ntRamInit     : Memory
  pixelsInit    : Store 32
  systemPalette : Store 32
  buttons1      : Byte
  buttons2      : Byte
  deriving DecidableEq, Repr

/-- Why a cartridge does not load (rules R265 category 1, R341, R342). -/
inductive LoadError where
  /-- The image does not begin with `4E 45 53 1A` (rule R341). -/
  | malformedMagic
  /-- The image ends before its header, trainer, PRG or CHR bytes do. -/
  | truncatedImage
  /-- NES 2.0 or archaic iNES (rule R342). -/
  | unsupportedFormat
  /-- PAL (rule R342). -/
  | unsupportedTvSystem
  /-- A mapper id outside the eight of rule R6. -/
  | unsupportedMapper
  /-- The four-screen flag is set (rule R342, decision D33). -/
  | alternateLayout
  /-- `PRG_UNITS = 0` (rule R342). -/
  | noPrgRom
  /-- `CHR_UNITS = 0` on a mapper without CHR-RAM (rules R342, R348). -/
  | chrRamUnsupported
  /-- A parameter outside its type in rule R6: a single-screen `MIRRORING`, or a memory that is not
  canonical or lists a cell it does not have. -/
  | outsideParameterType
  deriving DecidableEq, Repr

end Sys2Proof
end

