-- ==== Sys2Proof/Machine/State.lean ====
section
/-! DEFINITION. The whole state of the block as plain data (rules R20 to R49), the ways a step can stop,
and the state after reset. -/

namespace Sys2Proof.Machine

/-- Whether a bus access reads or writes (recorded info of rule R245). -/
inductive Direction where
  | read | write
  deriving DecidableEq, Repr

/-- Which bus an access came from (recorded info of rule R245). -/
inductive BusSide where
  | cpu | ppu
  deriving DecidableEq, Repr

/-- `halt_reason` with its recorded info (rule R245). Nothing in the machine reads it. -/
inductive HaltReason where
  /-- Code 1: an illegal opcode byte was fetched from this address. -/
  | illegalOpcode (opcode : Byte) (address : Word)
  /-- Code 2: a table entry names a mode outside the map. No decoded instruction raises it (rule R156). -/
  | illegalAddressingMode
  /-- Code 3: an access to `$4018` to `$401F` (rule R67). -/
  | testModeAccess (address : Word) (direction : Direction)
  /-- Code 4: a cartridge access the mapper has no capability for (rule R345). -/
  | unsupportedCartridgeAccess (address : Word) (side : BusSide) (direction : Direction)
  deriving DecidableEq, Repr

/-- CPU registers, cycle state and request latches (rules R20 to R28, R31). -/
structure Cpu where
  a               : Byte
  x               : Byte
  y               : Byte
  sp              : Byte
  p               : Byte
  pc              : Word
  remainingCycles : Nat
  tickCounter     : Nat
  nmiPending      : Bool
  irqPending      : Bool
  deriving DecidableEq, Repr

/-- What CPUBus owns (rule R33). -/
structure Bus where
  ram        : Memory
  openBus    : Byte
  strobe     : Bool
  shift1     : Byte
  shift2     : Byte
  dmaRequest : Bool
  dmaPage    : Byte
  deriving DecidableEq, Repr

/-- The render states (rule R39). -/
inductive RenderState where
  | render | postRender | verticalBlanking | preRender | finished
  deriving DecidableEq, Repr

/-- What PPUBus and the PPU own (rules R34 to R40). The cell of pixel column `px` on scanline `line` is
`line * 256 + px`. -/
structure Ppu where
  palette        : Memory
  v              : Scroll
  t              : Scroll
  x              : BitVec 3
  w              : Bool
  ctrl           : Byte
  mask           : Byte
  vblank         : Bool
  sprite0Hit     : Bool
  spriteOverflow : Bool
  oamAddr        : Byte
  readBuffer     : Byte
  oam            : Memory
  secCount       : Nat
  secIndex       : Vector (BitVec 6) 8
  renderState    : RenderState
  scanline       : Nat
  cycle          : Nat
  oddFrame       : Bool
  pixels         : Store 32
  deriving DecidableEq, Repr

/-- The registers of mapper 001 (rules R43, R351). -/
structure Mapper001 where
  shift      : BitVec 5
  shiftCount : Nat
  control    : BitVec 5
  chrBank0   : BitVec 5
  chrBank1   : BitVec 5
  prgBank    : BitVec 5
  deriving DecidableEq, Repr

/-- The registers of mapper 004 (rules R43, R362). -/
structure Mapper004 where
  bankSelect : Byte
  bankReg    : Vector Byte 8
  irqLatch   : Byte
  irqCounter : Byte
  irqReload  : Bool
  irqEnable  : Bool
  deriving DecidableEq, Repr

/-- The mapper state block, whose constructor is `MAPPER_ID` (rules R43, R340). -/
inductive Mapper where
  | m000
  | m001 (regs : Mapper001)
  | m002 (bankLatch : Byte)
  | m003 (bankLatch : Byte)
  | m004 (regs : Mapper004)
  | m007 (bankLatch : Byte)
  | m011 (bankLatch : Byte)
  | m066 (bankLatch : Byte)
  deriving DecidableEq, Repr

/-- What the cartridge owns (rules R41 to R43): the constants of the load, the memories, the current
mirroring with its offset table, the bank-offset register file and the mapper's registers. -/
structure Cart where
  format      : RomFormat
  tvSystem    : TvSystem
  prgUnits    : Nat
  chrUnits    : Nat
  prgRamUnits : Nat
  mirroring   : Mirroring
  prgRom      : Memory
  prgRam      : Memory
  chr         : Memory
  ntRam       : Memory
  ntOffset    : Vector Nat 4
  prgOff      : Vector Nat 4
  chrOff      : Vector Nat 8
  mapper      : Mapper
  deriving DecidableEq, Repr

/-- The whole machine. `halted` is the halted bit and its `halt_reason` (rule R32) in one: the spec gives
`halt_reason` no value before a halt, and here it has none while the bit is 0 (DESIGN CHOICE,
notes/assumptions 18). The button masks and the colour table are the host's inputs (rule R6). -/
structure State where
  cpu           : Cpu
  halted        : Option HaltReason
  bus           : Bus
  ppu           : Ppu
  cart          : Cart
  buttons1      : Byte
  buttons2      : Byte
  systemPalette : Store 32
  deriving DecidableEq, Repr

/-- A step never faults: the spec's one kind of fault is the fatal halt, and rule R246 gives the state it
leaves, so it is a next state with `halted` set. No constructor, raised by nobody; safe. -/
inductive Fault where
  deriving DecidableEq, Repr

/-- Why a step is refused. -/
inductive Refusal where
  /-- Raised by an arm of `exec` whose instruction has no meaning yet; none is left. Safe. -/
  | notModelled (mnemonic : String)
  deriving DecidableEq, Repr

/-- What `exec` and `step` answer. -/
abbrev Result := Host.Outcome State Fault Refusal

/-- What a bus access or an operation answers: a value and the state it leaves, or the state a
`raise Halt` leaves (rule R246). -/
inductive Act (α : Type) where
  | ok (value : α) (s : State)
  | halt (s : State)
  deriving DecidableEq, Repr

/-- The state after power-on and one `Reset()` (rules R46 to R49, R400, R401) of a machine with an empty
mapper-000 cartridge and every OPEN content zero (notes/assumptions 2 to 4). Tests prove it is
`hostReset` of `powerOn`. -/
def State.reset : State where
  cpu :=
    { a := 0x00, x := 0x00, y := 0x00, sp := 0xFD, p := 0x24, pc := 0x0000,
      remainingCycles := 7, tickCounter := 0, nmiPending := false, irqPending := false }
  halted := none
  bus :=
    { ram := [], openBus := 0x00, strobe := false, shift1 := 0x00, shift2 := 0x00,
      dmaRequest := false, dmaPage := 0x00 }
  ppu :=
    { palette := [], v := 0, t := 0, x := 0, w := false, ctrl := 0x00, mask := 0x00,
      vblank := false, sprite0Hit := false, spriteOverflow := false,
      oamAddr := 0x00, readBuffer := 0x00, oam := [], secCount := 0,
      secIndex := #v[0, 0, 0, 0, 0, 0, 0, 0],
      renderState := .preRender, scanline := 261, cycle := 0, oddFrame := false, pixels := [] }
  cart :=
    { format := .iNES, tvSystem := .ntsc, prgUnits := 1, chrUnits := 0, prgRamUnits := 0,
      mirroring := .horizontal, prgRom := [], prgRam := [], chr := [], ntRam := [],
      ntOffset := #v[0, 0, 0x400, 0x400],
      prgOff := #v[0, 0x2000, 0, 0x2000],
      chrOff := #v[0, 0x400, 0x800, 0xC00, 0x1000, 0x1400, 0x1800, 0x1C00],
      mapper := .m000 }
  buttons1 := 0x00
  buttons2 := 0x00
  systemPalette := []

end Sys2Proof.Machine
end

