-- ==== Sys2Proof/Machine/Memory.lean ====
section
/-! DEFINITION. Reading and writing one cell of a memory, and its canonical form. -/

namespace Sys2Proof.Machine

/-- The cell at index `k`. A cell that is not listed is 0 (notes/assumptions 3). -/
def readCell {w : Nat} : Store w → Nat → BitVec w
  | [], _ => 0
  | (i, u) :: m, k => if i = k then u else readCell m k

/-- Put a cell in front of a memory whose indices are all higher, unless it is 0. -/
def consCell {w : Nat} (k : Nat) (u : BitVec w) (m : Store w) : Store w :=
  if u = 0 then m else (k, u) :: m

/-- Store `u` in the cell at index `k`, keeping the canonical form. -/
def writeCell {w : Nat} : Store w → Nat → BitVec w → Store w
  | [], k, u => consCell k u []
  | (i, t) :: m, k, u =>
    if k < i then consCell k u ((i, t) :: m)
    else if k = i then consCell k u m
    else (i, t) :: writeCell m k u

/-- All indices of a memory are above `k`. -/
def storeAbove {w : Nat} (k : Nat) (m : Store w) : Bool := m.all (fun c => k < c.1)

/-- The canonical form: indices strictly rising and no listed cell 0. -/
def storeWf {w : Nat} : Store w → Bool
  | [] => true
  | (i, u) :: m => u != 0 && storeAbove i m && storeWf m

/-- The canonical form of a byte memory. -/
abbrev Memory.wf (m : Memory) : Bool := storeWf m

/-- Every listed index is below the memory's size. -/
def storeWithin {w : Nat} (size : Nat) (m : Store w) : Bool := m.all (fun c => c.1 < size)

/-- A memory that holds the given values from index `k` up. -/
def storeOfList {w : Nat} (k : Nat) : List (BitVec w) → Store w
  | [] => []
  | u :: us => consCell k u (storeOfList (k + 1) us)

end Sys2Proof.Machine
end

