-- ==== Sys2Proof/Machine/Flags.lean ====
section
/-! DEFINITION. The status register and every flag computation: the bits of `P` (rules R24, R25), the
arithmetic laws (rules R184 to R186, R199), and the shifts and rotates (rules R204 to R207). An operation
on flags takes the old status byte and answers the new one. -/

namespace Sys2Proof.Machine

/-- Bit masks of the flags of `P` (rule R24). -/
def maskC : Byte := 0x01
def maskZ : Byte := 0x02
def maskI : Byte := 0x04
def maskD : Byte := 0x08
def maskB : Byte := 0x10
def maskU : Byte := 0x20
def maskV : Byte := 0x40
def maskN : Byte := 0x80

/-- `P.C`, Carry (rule R24). -/
def flagC (p : Byte) : Bool := p.getLsbD 0
/-- `P.Z`, Zero (rule R24). -/
def flagZ (p : Byte) : Bool := p.getLsbD 1
/-- `P.I`, IrqDisable (rule R24). -/
def flagI (p : Byte) : Bool := p.getLsbD 2
/-- `P.D`, DecimalMode (rule R24). -/
def flagD (p : Byte) : Bool := p.getLsbD 3
/-- `P.B`, BrkCommand (rules R24, R25). -/
def flagB (p : Byte) : Bool := p.getLsbD 4
/-- `P.U`, Unused, always 1 (rules R24, R25). -/
def flagU (p : Byte) : Bool := p.getLsbD 5
/-- `P.V`, Overflow (rule R24). -/
def flagV (p : Byte) : Bool := p.getLsbD 6
/-- `P.N`, Negative (rule R24). -/
def flagN (p : Byte) : Bool := p.getLsbD 7

/-- Write the flag of a mask (notation section 6 of 00_scope.md: `P.C <- b`). -/
def withFlag (mask : Byte) (b : Bool) (p : Byte) : Byte :=
  if b then p ||| mask else p &&& ~~~mask

/-- `SetNZ(v)` (rule R160). -/
def setNZ (v : Byte) (p : Byte) : Byte :=
  withFlag maskN (v.getLsbD 7) (withFlag maskZ (v == 0) p)

/-- A flag as the number an addition takes in. -/
def carryNat (c : Bool) : Nat := if c then 1 else 0

/-- `AddBinary(a, m, c)` (rule R184): the sum and the new status. -/
def addBinary (a m : Byte) (p : Byte) : Byte × Byte :=
  let t := a.toNat + m.toNat + carryNat (flagC p)
  let r := BitVec.ofNat 8 t
  let v := (((a ^^^ r) &&& (m ^^^ r)).getLsbD 7)
  (r, setNZ r (withFlag maskV v (withFlag maskC (decide (t > 0xFF)) p)))

/-- The low-digit sum of `AddDecimal` with its `+6` correction (rule R185). -/
def addDecimalLow (a m : Byte) (c : Bool) : Nat :=
  let al := a.toNat % 16 + m.toNat % 16 + carryNat c
  if al > 9 then (al + 6) % 16 + 0x10 else al

/-- `AddDecimal(a, m, c)` (rule R185): the decimal sum and the new status. N and V come from `t` before
the `+0x60` correction, C and Z from after it. -/
def addDecimal (a m : Byte) (p : Byte) : Byte × Byte :=
  let t := (a.toNat - a.toNat % 16) + (m.toNat - m.toNat % 16) + addDecimalLow a m (flagC p)
  let n := t.testBit 7
  let v := ((a.toNat ^^^ t) &&& (m.toNat ^^^ t)).testBit 7
  let t := if t > 0x99 then t + 0x60 else t
  let r := BitVec.ofNat 8 t
  (r, withFlag maskZ (r == 0) (withFlag maskC (decide (t > 0xFF))
    (withFlag maskV v (withFlag maskN n p))))

/-- The low-digit difference of `SubDecimal` with its borrow correction (rule R186). -/
def subDecimalLow (a m : Byte) (c : Bool) : Int :=
  let al : Int := (a.toNat % 16 : Nat) - (m.toNat % 16 : Nat) + carryNat c - 1
  if al < 0 then (al - 6) % 16 - 0x10 else al

/-- `SubDecimal(a, m, c)` (rule R186): the decimal difference and the new status. C, V and N are those
of the binary difference, Z comes from the stored result. -/
def subDecimal (a m : Byte) (p : Byte) : Byte × Byte :=
  let t := a.toNat + (m ^^^ 0xFF).toNat + carryNat (flagC p)
  let v := ((a.toNat ^^^ t) &&& ((m ^^^ 0xFF).toNat ^^^ t)).testBit 7
  let r : Int := ((a.toNat - a.toNat % 16 : Nat) : Int) - (m.toNat - m.toNat % 16 : Nat)
    + subDecimalLow a m (flagC p)
  let r := if r < 0 then r - 0x60 else r
  let r := BitVec.ofInt 8 r
  (r, withFlag maskZ (r == 0) (withFlag maskN (t.testBit 7)
    (withFlag maskV v (withFlag maskC (decide (t > 0xFF)) p))))

/-- The sum ADC leaves in `A` and the status it leaves (rule R187). -/
def adcResult (a m : Byte) (p : Byte) : Byte × Byte :=
  if flagD p then addDecimal a m p else addBinary a m p

/-- The difference SBC leaves in `A` and the status it leaves (rule R188). -/
def sbcResult (a m : Byte) (p : Byte) : Byte × Byte :=
  if flagD p then subDecimal a m p else addBinary a (m ^^^ 0xFF) p

/-- The cycle ADC and SBC add in decimal mode (rules R187, R188). -/
def decimalExtra (p : Byte) : Nat := if flagD p then 1 else 0

/-- `Compare(r, m)` (rule R199): the new status. -/
def compareFlags (r m : Byte) (p : Byte) : Byte :=
  setNZ (r - m) (withFlag maskC (decide (m.toNat ≤ r.toNat)) p)

/-- The flags of BIT (rule R203): Z from the AND, N and V from the memory byte. -/
def bitFlags (a m : Byte) (p : Byte) : Byte :=
  withFlag maskV (m.getLsbD 6) (withFlag maskN (m.getLsbD 7) (withFlag maskZ (a &&& m == 0) p))

/-- ASL (rule R204): the shifted byte and the new status. -/
def aslResult (m : Byte) (p : Byte) : Byte × Byte :=
  let r := m <<< 1
  (r, setNZ r (withFlag maskC (m.getLsbD 7) p))

/-- LSR (rule R205). -/
def lsrResult (m : Byte) (p : Byte) : Byte × Byte :=
  let r := m >>> 1
  (r, setNZ r (withFlag maskC (m.getLsbD 0) p))

/-- ROL (rule R206): the old carry enters bit 0. -/
def rolResult (m : Byte) (p : Byte) : Byte × Byte :=
  let r := (m <<< 1) ||| (if flagC p then 0x01 else 0x00)
  (r, setNZ r (withFlag maskC (m.getLsbD 7) p))

/-- ROR (rule R207): the old carry enters bit 7. -/
def rorResult (m : Byte) (p : Byte) : Byte × Byte :=
  let r := (m >>> 1) ||| (if flagC p then 0x80 else 0x00)
  (r, setNZ r (withFlag maskC (m.getLsbD 0) p))

/-- INC (rule R192). -/
def incResult (m : Byte) (p : Byte) : Byte × Byte := (m + 1, setNZ (m + 1) p)

/-- DEC (rule R195). -/
def decResult (m : Byte) (p : Byte) : Byte × Byte := (m - 1, setNZ (m - 1) p)

/-- The status byte PHP and BRK push (rules R179, R236). -/
def pushedByInstruction (p : Byte) : Byte := p ||| 0x30

/-- The status byte NMI and IRQ entry push (rule R252). -/
def pushedByInterrupt (p : Byte) : Byte := (p &&& 0xEF) ||| 0x20

/-- The status PLP and RTI load from a pulled byte (rules R25, R181, R237). -/
def pulledStatus (b : Byte) : Byte := (b &&& 0xCF) ||| 0x20

end Sys2Proof.Machine
end

