-- ==== Sys2Proof/Machine/Cartridge.lean ====
section
/-! DEFINITION. The cartridge: capabilities, bank-offset register file, the eight mappers and the
scanline-IRQ counter (62_cartridge_mappers.md). Every operation works on the cartridge alone, which
depends on nothing else (rule R340). -/

namespace Sys2Proof.Machine

/-- `MAPPER_ID` of a mapper state block (rule R340). -/
def Mapper.id : Mapper → MapperId
  | .m000 => .m000
  | .m001 _ => .m001
  | .m002 _ => .m002
  | .m003 _ => .m003
  | .m004 _ => .m004
  | .m007 _ => .m007
  | .m011 _ => .m011
  | .m066 _ => .m066

/-- Whether a mapper has PRG-RAM at `$6000` to `$7FFF` (rule R348). -/
def prgRamCapable : MapperId → Bool
  | .m000 | .m001 | .m004 => true
  | .m002 | .m003 | .m007 | .m011 | .m066 => false

/-- Whether a mapper supports CHR-RAM when `CHR_UNITS = 0` (rule R348). -/
def chrRamCapable : MapperId → Bool
  | .m000 | .m001 | .m002 | .m004 | .m007 => true
  | .m003 | .m011 | .m066 => false

/-- `PRG_SIZE` (rule R347). -/
def prgSize (c : Cart) : Nat := c.prgUnits * 16384

/-- `CHR_SIZE` (rule R347). -/
def chrSize (c : Cart) : Nat := max c.chrUnits 1 * 8192

/-- The size of `prg_ram` (rule R41). -/
def prgRamSize (c : Cart) : Nat := max c.prgRamUnits 1 * 8192

/-- The byte offset of 8 KiB PRG bank `b`, reduced modulo the banks present (rule R347). -/
def prgBankOffset (c : Cart) (b : Int) : Nat := (b % ((prgSize c / 8192 : Nat) : Int)).toNat * 8192

/-- The byte offset of 1 KiB CHR bank `b`, reduced modulo the banks present (rule R347). -/
def chrBankOffset (c : Cart) (b : Nat) : Nat := b % (chrSize c / 1024) * 1024

/-- `SetPrg8(slot, b)` (rule R347). -/
def setPrg8 (slot : Fin 4) (b : Int) (c : Cart) : Cart :=
  { c with prgOff := c.prgOff.set slot (prgBankOffset c b) }

/-- `SetPrg16(half, b)` (rule R347). -/
def setPrg16 (half : Fin 2) (b : Int) (c : Cart) : Cart :=
  setPrg8 ⟨2 * half.val + 1, by omega⟩ (2 * b + 1) (setPrg8 ⟨2 * half.val, by omega⟩ (2 * b) c)

/-- `SetPrg32(b)` (rule R347). -/
def setPrg32 (b : Int) (c : Cart) : Cart := setPrg16 1 (2 * b + 1) (setPrg16 0 (2 * b) c)

/-- `SetChr1(slot, b)` (rule R347). -/
def setChr1 (slot : Fin 8) (b : Nat) (c : Cart) : Cart :=
  { c with chrOff := c.chrOff.set slot (chrBankOffset c b) }

/-- `SetChr2(pair, b)`, `b` in 1 KiB units: banks `b & ~1` and `b | 1` (rule R347). -/
def setChr2 (pair : Fin 4) (b : Nat) (c : Cart) : Cart :=
  setChr1 ⟨2 * pair.val + 1, by omega⟩ (b / 2 * 2 + 1) (setChr1 ⟨2 * pair.val, by omega⟩ (b / 2 * 2) c)

/-- `SetChr4(half, b)`, `b` in 4 KiB units (rule R347). -/
def setChr4 (half : Fin 2) (b : Nat) (c : Cart) : Cart :=
  setChr2 ⟨2 * half.val + 1, by omega⟩ (4 * b + 2) (setChr2 ⟨2 * half.val, by omega⟩ (4 * b) c)

/-- `SetChr8(b)`, `b` in 8 KiB units (rule R347). -/
def setChr8 (b : Nat) (c : Cart) : Cart := setChr4 1 (2 * b + 1) (setChr4 0 (2 * b) c)

/-- The nametable offsets of a mirroring mode (rule R346). -/
def mirrorOffsets : Mirroring → Vector Nat 4
  | .horizontal => #v[0, 0, 0x400, 0x400]
  | .vertical => #v[0, 0x400, 0, 0x400]
  | .singleLower => #v[0, 0, 0, 0]
  | .singleUpper => #v[0x400, 0x400, 0x400, 0x400]

/-- `SetMirroring(mode)` (rule R346). -/
def setMirroring (m : Mirroring) (c : Cart) : Cart :=
  { c with mirroring := m, ntOffset := mirrorOffsets m }

/-- `MirrorOf`, mapper 001's mirroring bits (rule R353). -/
def mirrorOf (bits : BitVec 2) : Mirroring :=
  if bits = 0 then .singleLower
  else if bits = 1 then .singleUpper
  else if bits = 2 then .vertical
  else .horizontal

/-- `SetPRGBanks()` of mapper 001 (rule R354). -/
def setPrgBanks001 (r : Mapper001) (c : Cart) : Cart :=
  let b : Nat := (r.prgBank &&& 0x0F).toNat
  let even : Nat := (r.prgBank &&& 0x0E).toNat
  let mode := r.control.extractLsb' 2 2
  if mode = 2 then setPrg16 1 b (setPrg16 0 0 c)
  else if mode = 3 then setPrg16 1 (-1) (setPrg16 0 b c)
  else setPrg16 1 (even + 1) (setPrg16 0 even c)

/-- `SetCHRBanks()` of mapper 001 (rule R355). -/
def setChrBanks001 (r : Mapper001) (c : Cart) : Cart :=
  if r.control.getLsbD 4 then setChr4 1 r.chrBank1.toNat (setChr4 0 r.chrBank0.toNat c)
  else
    let even := (r.chrBank0 &&& 0x1E).toNat
    setChr4 1 (even + 1) (setChr4 0 even c)

/-- The registers of mapper 001 with the shift register empty (rule R351). -/
def Mapper001.cleared (r : Mapper001) : Mapper001 := { r with shift := 0, shiftCount := 0 }

/-- Apply a full shift register to the destination the fifth write's address selects (rule R351). -/
def apply001 (a : Word) (r : Mapper001) (c : Cart) : Cart :=
  let region := a.extractLsb' 13 2
  if region = 0 then
    let r' := { r.cleared with control := r.shift }
    setChrBanks001 r' (setPrgBanks001 r'
      (setMirroring (mirrorOf (r'.control.extractLsb' 0 2)) { c with mapper := .m001 r' }))
  else if region = 1 then
    let r' := { r.cleared with chrBank0 := r.shift }
    setChrBanks001 r' { c with mapper := .m001 r' }
  else if region = 2 then
    let r' := { r.cleared with chrBank1 := r.shift }
    setChrBanks001 r' { c with mapper := .m001 r' }
  else
    let r' := { r.cleared with prgBank := r.shift }
    setPrgBanks001 r' { c with mapper := .m001 r' }

/-- `MapperWrite` of mapper 001 (rules R351, R352). -/
def write001 (a : Word) (v : Byte) (r : Mapper001) (c : Cart) : Cart :=
  if v.getLsbD 7 then { c with mapper := .m001 r.cleared }
  else
    let bit : BitVec 5 := if v.getLsbD 0 then 1 else 0
    let r' := { r with shift := r.shift ||| (bit <<< r.shiftCount), shiftCount := r.shiftCount + 1 }
    if r'.shiftCount = 5 then apply001 a r' c else { c with mapper := .m001 r' }

/-- `UpdateBanks()` of mapper 004 (rule R365). -/
def updateBanks004 (r : Mapper004) (c : Cart) : Cart :=
  let reg (i : Fin 8) : Nat := (r.bankReg[i]).toNat
  let c :=
    if r.bankSelect.getLsbD 6 then
      setPrg8 3 (-1) (setPrg8 2 (reg 6) (setPrg8 1 (reg 7) (setPrg8 0 (-2) c)))
    else setPrg8 3 (-1) (setPrg8 2 (-2) (setPrg8 1 (reg 7) (setPrg8 0 (reg 6) c)))
  if r.bankSelect.getLsbD 7 then
    setChr2 3 (reg 1) (setChr2 2 (reg 0)
      (setChr1 3 (reg 5) (setChr1 2 (reg 4) (setChr1 1 (reg 3) (setChr1 0 (reg 2) c)))))
  else
    setChr1 7 (reg 5) (setChr1 6 (reg 4) (setChr1 5 (reg 3) (setChr1 4 (reg 2)
      (setChr2 1 (reg 1) (setChr2 0 (reg 0) c)))))

/-- `MapperWrite` of mapper 004, selected by `a & 0xE001` (rules R362, R363). -/
def write004 (a : Word) (v : Byte) (r : Mapper004) (c : Cart) : Cart :=
  let odd := a.getLsbD 0
  let region := a.extractLsb' 13 2
  if region = 0 then
    let r' :=
      if odd then { r with bankReg := r.bankReg.set (r.bankSelect.extractLsb' 0 3).toFin v }
      else { r with bankSelect := v }
    updateBanks004 r' { c with mapper := .m004 r' }
  else if region = 1 then
    if odd then c else setMirroring (if v.getLsbD 0 then .horizontal else .vertical) c
  else if region = 2 then
    { c with mapper := .m004 (if odd then { r with irqReload := true } else { r with irqLatch := v }) }
  else { c with mapper := .m004 { r with irqEnable := odd } }

/-- `MapperWrite(a, val)`, `a` in `$8000` to `$FFFF` (rules R350, R351, R358 to R362, R377 to R382). -/
def mapperWrite (a : Word) (v : Byte) (c : Cart) : Cart :=
  match c.mapper with
  | .m000 => c
  | .m001 r => write001 a v r c
  | .m002 _ => setPrg16 0 v.toNat { c with mapper := .m002 v }
  | .m003 _ => setChr8 v.toNat { c with mapper := .m003 v }
  | .m004 r => write004 a v r c
  | .m007 _ =>
    setMirroring (if v.getLsbD 4 then .singleUpper else .singleLower)
      (setPrg32 (v &&& 0x07).toNat { c with mapper := .m007 v })
  | .m011 _ => setChr8 (v >>> 4).toNat (setPrg32 (v &&& 0x03).toNat { c with mapper := .m011 v })
  | .m066 _ =>
    setChr8 (v &&& 0x03).toNat (setPrg32 ((v >>> 4) &&& 0x03).toNat { c with mapper := .m066 v })

/-- The offset in `prg_rom` of a CPU address in `$8000` to `$FFFF` (rule R343). -/
def prgRomOffset (c : Cart) (a : Word) : Nat :=
  c.prgOff[(a.extractLsb' 13 2).toFin] + (a.extractLsb' 0 13).toNat

/-- The offset in `chr` of a PPU address in `$0000` to `$1FFF` (rule R344). -/
def chrOffset (c : Cart) (a : PpuAddr) : Nat :=
  c.chrOff[(a.extractLsb' 10 3).toFin] + (a.extractLsb' 0 10).toNat

/-- `CartReadCPU(a)`, `a` in `$4020` to `$FFFF` (rule R343); none where the mapper has no PRG-RAM
(rule R345). -/
def cartReadCpu (c : Cart) (a : Word) : Option Byte :=
  if a.toNat < 0x6000 then some 0x00
  else if a.toNat < 0x8000 then
    if prgRamCapable c.mapper.id then some (readCell c.prgRam (a.toNat - 0x6000)) else none
  else some (readCell c.prgRom (prgRomOffset c a))

/-- `CartWriteCPU(a, val)` (rule R343); none where the mapper has no PRG-RAM (rule R345). -/
def cartWriteCpu (c : Cart) (a : Word) (v : Byte) : Option Cart :=
  if a.toNat < 0x6000 then some c
  else if a.toNat < 0x8000 then
    if prgRamCapable c.mapper.id then
      some { c with prgRam := writeCell c.prgRam (a.toNat - 0x6000) v }
    else none
  else some (mapperWrite a v c)

/-- `CartReadPPU(a)` (rule R344). -/
def cartReadPpu (c : Cart) (a : PpuAddr) : Byte := readCell c.chr (chrOffset c a)

/-- `CartWritePPU(a, val)` (rule R344); none where the cartridge has CHR-ROM (rule R345). -/
def cartWritePpu (c : Cart) (a : PpuAddr) (v : Byte) : Option Cart :=
  if c.chrUnits = 0 then some { c with chr := writeCell c.chr (chrOffset c a) v } else none

/-- The counter of mapper 004 at one call of the hook (rule R375). -/
def countScanline (r : Mapper004) : Mapper004 :=
  if r.irqCounter = 0 ∨ r.irqReload then { r with irqCounter := r.irqLatch, irqReload := false }
  else { r with irqCounter := r.irqCounter - 1 }

/-- `ScanlineIRQ()` (rule R375): whether to raise IRQ, and the cartridge after the call. -/
def scanlineIrq (c : Cart) : Bool × Cart :=
  match c.mapper with
  | .m004 r =>
    let r' := countScanline r
    (r'.irqCounter == 0 && r'.irqEnable, { c with mapper := .m004 r' })
  | _ => (false, c)

end Sys2Proof.Machine
end

