-- ==== Sys2Proof/Machine/Ppu.lean ====
section
/-! DEFINITION. The PPU bus (rules R78 to R83), the scroll-register helpers (rules R292 to R294) and the
eight port registers (rules R281 to R290). A PPU read has no side effect on any supported cartridge
(rule R304), so it is a plain function of the state. -/

namespace Sys2Proof.Machine

/-- `raise Halt(reason)`: the step ends with everything written so far kept (rule R246). -/
def raise {α : Type} (r : HaltReason) (s : State) : Act α := .halt { s with halted := some r }

/-- Go on with the value and the state of an operation, unless it halted. -/
def Act.bind {α β : Type} (m : Act α) (f : α → State → Act β) : Act β :=
  match m with
  | .ok a s => f a s
  | .halt s => .halt s

/-- The state an operation leaves, halted or not. -/
def Act.state {α : Type} : Act α → State
  | .ok _ s => s
  | .halt s => s

/-- The bus address of a scroll register: bit 14 is dropped (rule R78). -/
def busAddr (v : Scroll) : PpuAddr := v.setWidth 14

/-- `NtIndex(a)` (rules R79, R81, R82). -/
def ntIndex (c : Cart) (a : PpuAddr) : Nat :=
  c.ntOffset[(a.extractLsb' 10 2).toFin] + (a.extractLsb' 0 10).toNat

/-- `PalIndex(a)` (rules R79, R83). -/
def palIndex (a : PpuAddr) : Nat :=
  let i := a.extractLsb' 0 5
  (if i &&& 0x13 = 0x10 then i - 0x10 else i).toNat

/-- `PpuRead(addr)` (rule R79). -/
def ppuRead (s : State) (a : PpuAddr) : Byte :=
  if a.toNat < 0x2000 then cartReadPpu s.cart a
  else if a.toNat < 0x3F00 then readCell s.cart.ntRam (ntIndex s.cart a)
  else readCell s.ppu.palette (palIndex a)

/-- `PpuWrite(addr, val)` (rules R79, R344, R345). -/
def ppuWrite (a : PpuAddr) (v : Byte) (s : State) : Act Unit :=
  if a.toNat < 0x2000 then
    match cartWritePpu s.cart a v with
    | some c => .ok () { s with cart := c }
    | none => raise (.unsupportedCartridgeAccess (a.setWidth 16) .ppu .write) s
  else if a.toNat < 0x3F00 then
    .ok () { s with cart.ntRam := writeCell s.cart.ntRam (ntIndex s.cart a) v }
  else .ok () { s with ppu.palette := writeCell s.ppu.palette (palIndex a) v }

/-- `Rendering()` (rule R296). -/
def rendering (p : Ppu) : Bool := p.mask.getLsbD 3 || p.mask.getLsbD 4

/-- `IncrementX()` (rule R292). -/
def incrementX (v : Scroll) : Scroll :=
  if v &&& 0x001F = 31 then (v &&& 0x7FE0) ^^^ 0x0400 else v + 1

/-- `IncrementY()` (rule R293). -/
def incrementY (v : Scroll) : Scroll :=
  if v &&& 0x7000 ≠ 0x7000 then v + 0x1000
  else
    let v := v &&& 0x0FFF
    let cy := (v >>> 5) &&& 0x1F
    if cy = 29 then (v ^^^ 0x0800) &&& 0x7C1F
    else if cy = 31 then v &&& 0x7C1F
    else (v &&& 0x7C1F) ||| ((cy + 1) <<< 5)

/-- `CopyHorizontal()` (rule R294). -/
def copyHorizontal (v t : Scroll) : Scroll := (v &&& 0x7BE0) ||| (t &&& 0x041F)

/-- `CopyVertical()` (rule R294). -/
def copyVertical (v t : Scroll) : Scroll := (v &&& 0x041F) ||| (t &&& 0x7BE0)

/-- The step of `v` after a port-7 access (rules R281, R288). -/
def dataStep (p : Ppu) : Scroll := if p.ctrl.getLsbD 2 then 32 else 1

/-- The byte port 2 reads as (rule R283). -/
def statusByte (p : Ppu) (openBus : Byte) : Byte :=
  (if p.vblank then 0x80 else 0) ||| (if p.sprite0Hit then 0x40 else 0) |||
    (if p.spriteOverflow then 0x20 else 0) ||| (openBus &&& 0x1F)

/-- The value of a read of port 7 and the buffer it leaves (rule R288). -/
def dataRead (s : State) : Byte × Byte :=
  let a := busAddr s.ppu.v
  if a.toNat < 0x3F00 then (s.ppu.readBuffer, ppuRead s a)
  else (ppuRead s a, ppuRead s (a - 0x1000))

/-- `PpuPortRead(p)` (rule R289): the value, and the state after the read's side effects. -/
def ppuPortRead (port : BitVec 3) (s : State) : Byte × State :=
  if port = 2 then
    (statusByte s.ppu s.bus.openBus, { s with ppu.vblank := false, ppu.w := false })
  else if port = 4 then (readCell s.ppu.oam s.ppu.oamAddr.toNat, s)
  else if port = 7 then
    let (v, buffer) := dataRead s
    (v, { s with ppu.readBuffer := buffer, ppu.v := s.ppu.v + dataStep s.ppu })
  else (s.bus.openBus, s)

/-- A write to port 0, PPUCTRL (rule R281). -/
def writeCtrl (v : Byte) (p : Ppu) : Ppu :=
  { p with ctrl := v, t := (p.t &&& 0x73FF) ||| ((v &&& 3).setWidth 15 <<< 10) }

/-- A write to port 5, PPUSCROLL (rule R286). -/
def writeScroll (v : Byte) (p : Ppu) : Ppu :=
  if p.w then
    { p with
      t := (p.t &&& 0x0C1F) ||| ((v &&& 7).setWidth 15 <<< 12) ||| ((v >>> 3).setWidth 15 <<< 5)
      w := false }
  else
    { p with
      t := (p.t &&& 0x7FE0) ||| (v >>> 3).setWidth 15
      x := v.setWidth 3
      w := true }

/-- A write to port 6, PPUADDR (rule R287). -/
def writeAddr (v : Byte) (p : Ppu) : Ppu :=
  if p.w then
    let t := (p.t &&& 0x7F00) ||| v.setWidth 15
    { p with t := t, v := t, w := false }
  else { p with t := (p.t &&& 0x00FF) ||| ((v &&& 0x3F).setWidth 15 <<< 8), w := true }

/-- A write to port 4, OAMDATA (rule R285). -/
def writeOam (v : Byte) (p : Ppu) : Ppu :=
  { p with oam := writeCell p.oam p.oamAddr.toNat v, oamAddr := p.oamAddr + 1 }

/-- `PpuPortWrite(p, val)` (rule R290). -/
def ppuPortWrite (port : BitVec 3) (v : Byte) (s : State) : Act Unit :=
  if port = 0 then .ok () { s with ppu := writeCtrl v s.ppu }
  else if port = 1 then .ok () { s with ppu.mask := v }
  else if port = 2 then .ok () s
  else if port = 3 then .ok () { s with ppu.oamAddr := v }
  else if port = 4 then .ok () { s with ppu := writeOam v s.ppu }
  else if port = 5 then .ok () { s with ppu := writeScroll v s.ppu }
  else if port = 6 then .ok () { s with ppu := writeAddr v s.ppu }
  else
    (ppuWrite (busAddr s.ppu.v) v s).bind fun _ s =>
      .ok () { s with ppu.v := s.ppu.v + dataStep s.ppu }

end Sys2Proof.Machine
end

