-- ==== Sys2Proof/Machine/Ops.lean ====
section
/-! DEFINITION. The CPU bus (rules R60 to R71), the stack (rules R176, R177), fetching (rule R140),
taking an interrupt and returning from one (rules R236, R237, R252), and `Reset()` (rule R401). -/

namespace Sys2Proof.Machine

/-- The register writes of the instruction rules. -/
def State.setA (v : Byte) (s : State) : State := { s with cpu.a := v }
def State.setX (v : Byte) (s : State) : State := { s with cpu.x := v }
def State.setY (v : Byte) (s : State) : State := { s with cpu.y := v }
def State.setSp (v : Byte) (s : State) : State := { s with cpu.sp := v }
def State.setP (v : Byte) (s : State) : State := { s with cpu.p := v }
def State.setPc (v : Word) (s : State) : State := { s with cpu.pc := v }
def State.setRemaining (n : Nat) (s : State) : State := { s with cpu.remainingCycles := n }
def State.setOpenBus (v : Byte) (s : State) : State := { s with bus.openBus := v }

/-- `zext_16(b)` (notation section 6 of 00_scope.md). -/
def zext16 (b : Byte) : Word := b.setWidth 16

/-- `sext_16(b)` (notation section 6 of 00_scope.md). -/
def sext16 (b : Byte) : Word := b.signExtend 16

/-- The PPU port of an address in `$2000` to `$3FFF` (rule R63). -/
def portOf (a : Word) : BitVec 3 := a.extractLsb' 0 3

/-- The cell of internal RAM of an address in `$0000` to `$1FFF` (rule R62). -/
def ramIndex (a : Word) : Nat := (a.extractLsb' 0 11).toNat

/-- Whether an address is in the test-mode range `$4018` to `$401F` (rule R67). -/
def inTestMode (a : Word) : Bool := 0x4018 ≤ a.toNat && a.toNat ≤ 0x401F

/-- Whether an address is in the PRG-RAM window `$6000` to `$7FFF` (rule R77). -/
def inPrgRamWindow (a : Word) : Bool := 0x6000 ≤ a.toNat && a.toNat < 0x8000

/-- One read of a controller shift register (rule R66): the bit read and the register after. -/
def shiftController (strobe : Bool) (buttons shift : Byte) : Bool × Byte :=
  let shift := if strobe then buttons else shift
  (shift.getLsbD 0, if strobe then shift else (shift >>> 1) ||| 0x80)

/-- The byte a controller port reads as (rule R66). -/
def controllerByte (openBus : Byte) (bit : Bool) : Byte := (openBus &&& 0xE0) ||| (if bit then 1 else 0)

/-- `IoRead(a)`, `a` in `$4000` to `$4017` (rules R64, R66). -/
def ioRead (a : Word) (s : State) : Byte × State :=
  if a = 0x4016 then
    let (bit, shift) := shiftController s.bus.strobe s.buttons1 s.bus.shift1
    (controllerByte s.bus.openBus bit, { s with bus.shift1 := shift })
  else if a = 0x4017 then
    let (bit, shift) := shiftController s.bus.strobe s.buttons2 s.bus.shift2
    (controllerByte s.bus.openBus bit, { s with bus.shift2 := shift })
  else (s.bus.openBus, s)

/-- A write of `$4016` (rule R66). -/
def writeStrobe (v : Byte) (s : State) : State :=
  let load := s.bus.strobe || v.getLsbD 0
  { s with
    bus.shift1 := if load then s.buttons1 else s.bus.shift1
    bus.shift2 := if load then s.buttons2 else s.bus.shift2
    bus.strobe := v.getLsbD 0 }

/-- `IoWrite(a, val)`, `a` in `$4000` to `$4017` (rules R64 to R66). -/
def ioWrite (a : Word) (v : Byte) (s : State) : State :=
  if a = 0x4014 then { s with bus.dmaRequest := true, bus.dmaPage := v }
  else if a = 0x4016 then writeStrobe v s
  else s

/-- Why a CPU read of an address halts; none where it does not (rules R67, R345). -/
def readHalt (a : Word) (s : State) : Option HaltReason :=
  if inTestMode a then some (.testModeAccess a .read)
  else if 0x4020 ≤ a.toNat && (cartReadCpu s.cart a).isNone then
    some (.unsupportedCartridgeAccess a .cpu .read)
  else none

/-- The value a CPU read returns and its side effects beyond the latch (rules R61 to R68, R71), where
`readHalt` has not stopped it. -/
def readValue (a : Word) (s : State) : Byte × State :=
  if a.toNat < 0x2000 then (readCell s.bus.ram (ramIndex a), s)
  else if a.toNat < 0x4000 then ppuPortRead (portOf a) s
  else if a.toNat ≤ 0x4017 then ioRead a s
  else ((cartReadCpu s.cart a).getD 0x00, s)

/-- `MemRead(addr, 1)` (rules R61, R69): a read that halts does not update the latch. -/
def memRead (a : Word) (s : State) : Act Byte :=
  match readHalt a s with
  | some r => raise r s
  | none =>
    let (v, s) := readValue a s
    .ok v (s.setOpenBus v)

/-- The effect of a CPU write behind the latch (rules R61 to R68). -/
def writeValue (a : Word) (v : Byte) (s : State) : Act Unit :=
  if a.toNat < 0x2000 then .ok () { s with bus.ram := writeCell s.bus.ram (ramIndex a) v }
  else if a.toNat < 0x4000 then ppuPortWrite (portOf a) v s
  else if a.toNat ≤ 0x4017 then .ok () (ioWrite a v s)
  else if a.toNat ≤ 0x401F then raise (.testModeAccess a .write) s
  else
    match cartWriteCpu s.cart a v with
    | some c => .ok () { s with cart := c }
    | none => raise (.unsupportedCartridgeAccess a .cpu .write) s

/-- `MemWrite(addr, 1, val)` (rules R61, R69): a write updates the latch before it is decoded. -/
def memWrite (a : Word) (v : Byte) (s : State) : Act Unit := writeValue a v (s.setOpenBus v)

/-- `Read16(a)`: low byte first, wrapping from `$FFFF` to `$0000` (rules R72, R73). -/
def read16 (a : Word) (s : State) : Act Word :=
  (memRead a s).bind fun lo s => (memRead (a + 1) s).bind fun hi s => .ok (wordOf lo hi) s

/-- `Fetch()` (notation section 6 of 00_scope.md, rule R26): the byte at `PC`, then `PC` advances. -/
def fetch (s : State) : Act Byte :=
  (memRead s.cpu.pc s).bind fun b s => .ok b (s.setPc (s.cpu.pc + 1))

/-- The byte of an Immediate operand (rule R143): `PC` advances first, the operation reads the byte. -/
def fetchImmediate (s : State) : Act Byte := memRead s.cpu.pc (s.setPc (s.cpu.pc + 1))

/-- The address of the stack byte at `sp` (rules R23, R75). -/
def stackAddr (sp : Byte) : Word := wordOf sp 0x01

/-- `Push(v)` (rule R176). -/
def push (v : Byte) (s : State) : Act Unit :=
  (memWrite (stackAddr s.cpu.sp) v s).bind fun _ s => .ok () (s.setSp (s.cpu.sp - 1))

/-- `Pull()` (rule R177). -/
def pull (s : State) : Act Byte :=
  let s := s.setSp (s.cpu.sp + 1)
  memRead (stackAddr s.cpu.sp) s

/-- Push a 16-bit value, high byte first (rules R72, R177). -/
def push16 (a : Word) (s : State) : Act Unit :=
  (push (hiByte a) s).bind fun _ s => push (loByte a) s

/-- Pull a 16-bit value, low byte first (rule R177). -/
def pull16 (s : State) : Act Word :=
  (pull s).bind fun lo s => (pull s).bind fun hi s => .ok (wordOf lo hi) s

/-- The fixed vectors (rules R76, R253). -/
def nmiVector : Word := 0xFFFA
def resetVector : Word := 0xFFFC
def irqVector : Word := 0xFFFE

/-- The cycles of an interrupt entry and of `Reset()` (rules R6, R241, R401). -/
def interruptCycles : Nat := 7
def resetCycles : Nat := 7

/-- Taking an exception, shared by NMI, IRQ and BRK (rules R236, R252): push the return address, high
byte first, push the given status byte, set `P.I`, and go where the vector points. -/
def enterException (vector ret : Word) (pushed : Byte) (s : State) : Act Unit :=
  (push16 ret s).bind fun _ s =>
  (push pushed s).bind fun _ s =>
  (read16 vector (s.setP (withFlag maskI true s.cpu.p))).bind fun target s =>
  .ok () (s.setPc target)

/-- `InterruptEntry(vector)` (rule R252). -/
def interruptEntry (vector : Word) (s : State) : Act Unit :=
  enterException vector s.cpu.pc (pushedByInterrupt s.cpu.p) s

/-- The entry BRK makes (rule R236), with `PC` past the opcode byte. -/
def breakEntry (s : State) : Act Unit :=
  enterException irqVector (s.cpu.pc + 1) (pushedByInstruction s.cpu.p) s

/-- The return RTI makes (rules R237, R254). -/
def returnFromInterrupt (s : State) : Act Unit :=
  (pull s).bind fun b s =>
  (pull16 (s.setP (pulledStatus b))).bind fun target s =>
  .ok () (s.setPc target)

/-- The PPU fields `Reset()` clears (rules R48, R401). -/
def resetPpu (p : Ppu) : Ppu :=
  { p with ctrl := 0x00, mask := 0x00, t := 0, x := 0, w := false, readBuffer := 0x00,
           oddFrame := false }

/-- `Reset()` (rules R400 to R405). -/
def hostReset (s : State) : State :=
  if s.halted.isSome then s
  else
    let cpu := { s.cpu with a := 0x00, x := 0x00, y := 0x00, sp := s.cpu.sp - 3, p := 0x24 }
    match read16 resetVector { s with cpu := cpu } with
    | .halt s => s
    | .ok target s =>
      { s with
        cpu := { s.cpu with pc := target, remainingCycles := resetCycles,
                            nmiPending := false, irqPending := false }
        bus.dmaRequest := false
        ppu := resetPpu s.ppu }

/-- Where a CPU address is backed by plain storage: internal RAM, PRG-RAM or PRG-ROM. -/
def backed (a : Word) (s : State) : Bool :=
  a.toNat < 0x2000 || 0x8000 ≤ a.toNat || (inPrgRamWindow a && prgRamCapable s.cart.mapper.id)

/-- Put a byte in the storage behind a CPU address with no other effect, as a loader would; an address
with no storage keeps the state. -/
def poke (a : Word) (v : Byte) (s : State) : State :=
  if a.toNat < 0x2000 then { s with bus.ram := writeCell s.bus.ram (ramIndex a) v }
  else if 0x8000 ≤ a.toNat then
    { s with cart.prgRom := writeCell s.cart.prgRom (prgRomOffset s.cart a) v }
  else if inPrgRamWindow a && prgRamCapable s.cart.mapper.id then
    { s with cart.prgRam := writeCell s.cart.prgRam (a.toNat - 0x6000) v }
  else s

/-- The byte in the storage behind a CPU address; 0 where there is none. -/
def peek (a : Word) (s : State) : Byte :=
  if a.toNat < 0x2000 then readCell s.bus.ram (ramIndex a)
  else if 0x8000 ≤ a.toNat then readCell s.cart.prgRom (prgRomOffset s.cart a)
  else if inPrgRamWindow a && prgRamCapable s.cart.mapper.id then
    readCell s.cart.prgRam (a.toNat - 0x6000)
  else 0x00

end Sys2Proof.Machine
end

