-- ==== Sys2Proof/Machine/Operands.lean ====
section
/-! DEFINITION. The thirteen addressing-mode functions and the page penalty (40_addressing_modes.md),
reading and writing the operand they name, and `operate`, the part of `Boundary()` after the fetch
(rule R241). The operand bytes are already in the instruction, read in the order of rule R157. -/

namespace Sys2Proof.Machine

/-- What an addressing mode hands to the operation (rule R140). -/
inductive Ref where
  /-- no address (rule R141) -/
  | none
  /-- the accumulator (rule R142) -/
  | accumulator
  /-- the operand byte itself (rule R143) -/
  | value (v : Byte)
  /-- the effective address -/
  | memory (address : Word)
  deriving DecidableEq, Repr

/-- `Crossed(base, addr)` (rule R154). -/
def crossed (base addr : Word) : Bool := hiByte base != hiByte addr

/-- The cycle a mode that can cross a page adds (rule R155). -/
def pageExtra (penalty : Bool) (base addr : Word) : Nat := if crossed base addr && penalty then 1 else 0

/-- The second byte of a pointer that wraps inside its page (rules R73, R151). -/
def samePageNext (p : Word) : Word := (p &&& 0xFF00) ||| ((p + 1) &&& 0x00FF)

/-- The word a page-0 pointer holds, both bytes from page 0 (rules R73, R152, R153). -/
def readZeroPagePointer (zp : Byte) (s : State) : Act Word :=
  (memRead (zext16 zp) s).bind fun lo s =>
  (memRead (zext16 (zp + 1)) s).bind fun hi s =>
  .ok (wordOf lo hi) s

/-- The word a 16-bit pointer holds, with the page-wrap bug (rule R151). -/
def readIndirectPointer (p : Word) (s : State) : Act Word :=
  (memRead p s).bind fun lo s =>
  (memRead (samePageNext p) s).bind fun hi s =>
  .ok (wordOf lo hi) s

/-- The addressing-mode functions (rules R140 to R153): what the operand names, and `extra`. -/
def address (penalty : Bool) (o : Operand) (s : State) : Act (Ref × Nat) :=
  match o with
  | .implied => .ok (.none, 0) s
  | .accumulator => .ok (.accumulator, 0) s
  | .immediate v => .ok (.value v, 0) s
  | .zeroPage a => .ok (.memory (zext16 a), 0) s
  | .zeroPageX b => .ok (.memory (zext16 (b + s.cpu.x)), 0) s
  | .zeroPageY b => .ok (.memory (zext16 (b + s.cpu.y)), 0) s
  | .relative off => .ok (.memory (s.cpu.pc + sext16 off), 0) s
  | .absolute a => .ok (.memory a, 0) s
  | .absoluteX b =>
    let a := b + zext16 s.cpu.x
    .ok (.memory a, pageExtra penalty b a) s
  | .absoluteY b =>
    let a := b + zext16 s.cpu.y
    .ok (.memory a, pageExtra penalty b a) s
  | .indirect p => (readIndirectPointer p s).bind fun a s => .ok (.memory a, 0) s
  | .indirectX z =>
    (readZeroPagePointer (z + s.cpu.x) s).bind fun a s => .ok (.memory a, 0) s
  | .indirectY z =>
    (readZeroPagePointer z s).bind fun b s =>
      let a := b + zext16 s.cpu.y
      .ok (.memory a, pageExtra penalty b a) s

/-- The operand byte an operation reads (rules R140, R142, R143). An operation that finds no operand
has an addressing mode outside the map (rule R156). -/
def readRef (r : Ref) (s : State) : Act Byte :=
  match r with
  | .none => raise .illegalAddressingMode s
  | .accumulator => .ok s.cpu.a s
  | .value v => .ok v s
  | .memory a => memRead a s

/-- Write a result back to the place an operand names (rules R164 to R166, R208). -/
def writeRef (r : Ref) (v : Byte) (s : State) : Act Unit :=
  match r with
  | .accumulator => .ok () (s.setA v)
  | .memory a => memWrite a v s
  | .none => raise .illegalAddressingMode s
  | .value _ => raise .illegalAddressingMode s

/-- `pc <- addr` for the address an operand names (rules R212, R221). -/
def jumpRef (r : Ref) (s : State) : Act Unit :=
  match r with
  | .memory a => .ok () (s.setPc a)
  | .none => raise .illegalAddressingMode s
  | .accumulator => raise .illegalAddressingMode s
  | .value _ => raise .illegalAddressingMode s

/-- End of an instruction: `remaining_cycles` takes the base count plus the cycles added (rules R119,
R240); after a halt nothing more is done (rule R246). -/
def complete (base : Nat) (m : Act Nat) : Result :=
  match m with
  | .ok extra s => .next (s.setRemaining (base + extra))
  | .halt s => .next s

/-- `Boundary()` from the table lookup on (rule R241): run the addressing mode, then the operation on
what it names. A mnemonic in a mode the map has no row for raises `Halt(IllegalAddressingMode)`
(rules R156, R245); no decoded instruction is such. -/
def operate (mn : Mnemonic) (o : Operand) (operation : Ref → State → Act Nat) (s : State) : Result :=
  match rowFor mn o.mode with
  | none => complete 0 (raise .illegalAddressingMode s)
  | some row =>
    complete row.baseCycles
      ((address row.pagePenalty o s).bind fun re s =>
        (operation re.1 s).bind fun more s => .ok (re.2 + more) s)

/-- An operation that adds no cycles. -/
def noExtra (m : Act Unit) : Act Nat := m.bind fun _ s => .ok 0 s

/-- An operation that only changes the state and adds no cycles. -/
def plain (f : State → State) (_ : Ref) (s : State) : Act Nat := .ok 0 (f s)

end Sys2Proof.Machine
end

