-- ==== Sys2Proof/Machine/Arithmetic.lean ====
section
/-! DEFINITION. Arithmetic, compares, increments and decrements (43_arithmetic.md). -/

namespace Sys2Proof.Machine

/-- Combine `A` with the operand byte, put the result in `A` and the new status in `P` (rules R187,
R188, R200 to R202). The added cycles depend on the old status. -/
def accumulate (f : Byte → Byte → Byte → Byte × Byte) (extra : Byte → Nat) (r : Ref) (s : State) :
    Act Nat :=
  (readRef r s).bind fun m s =>
    .ok (extra s.cpu.p) ((s.setA (f s.cpu.a m s.cpu.p).1).setP (f s.cpu.a m s.cpu.p).2)

/-- ADC (rule R187): binary, or decimal with one more cycle. -/
def execAdc (src : Operand) (s : State) : Result :=
  operate .adc src (accumulate adcResult decimalExtra) s

/-- SBC (rule R188): binary, or decimal with one more cycle. -/
def execSbc (src : Operand) (s : State) : Result :=
  operate .sbc src (accumulate sbcResult decimalExtra) s

/-- Compare a register with the operand byte (rule R199). -/
def compareWith (get : Cpu → Byte) (r : Ref) (s : State) : Act Nat :=
  (readRef r s).bind fun m s => .ok 0 (s.setP (compareFlags (get s.cpu) m s.cpu.p))

/-- CMP (rule R189). -/
def execCmp (src : Operand) (s : State) : Result := operate .cmp src (compareWith Cpu.a) s

/-- CPX (rule R190). -/
def execCpx (src : Operand) (s : State) : Result := operate .cpx src (compareWith Cpu.x) s

/-- CPY (rule R191). -/
def execCpy (src : Operand) (s : State) : Result := operate .cpy src (compareWith Cpu.y) s

/-- INC and DEC (rules R74, R192, R195): read the operand, write the result back to the same place with one
read and one write, then put the new status in `P`, so that a halted write keeps the old status. -/
def modifyOperand (f : Byte → Byte → Byte × Byte) (r : Ref) (s : State) : Act Nat :=
  (readRef r s).bind fun m s =>
    noExtra ((writeRef r (f m s.cpu.p).1 s).bind fun _ s' => .ok () (s'.setP (f m s.cpu.p).2))

/-- INC (rule R192). -/
def execInc (dst : Operand) (s : State) : Result := operate .inc dst (modifyOperand incResult) s

/-- DEC (rule R195). -/
def execDec (dst : Operand) (s : State) : Result := operate .dec dst (modifyOperand decResult) s

/-- Put a result in a register and the new status in `P` (rules R193, R194, R196, R197). -/
def stepRegister (get : Cpu → Byte) (set : Byte → State → State) (f : Byte → Byte → Byte × Byte)
    (s : State) : State :=
  set (f (get s.cpu) s.cpu.p).1 (s.setP (f (get s.cpu) s.cpu.p).2)

/-- INX (rule R193). -/
def execInx (s : State) : Result :=
  operate .inx .implied (plain (stepRegister Cpu.x State.setX incResult)) s

/-- INY (rule R194). -/
def execIny (s : State) : Result :=
  operate .iny .implied (plain (stepRegister Cpu.y State.setY incResult)) s

/-- DEX (rule R196). -/
def execDex (s : State) : Result :=
  operate .dex .implied (plain (stepRegister Cpu.x State.setX decResult)) s

/-- DEY (rule R197). -/
def execDey (s : State) : Result :=
  operate .dey .implied (plain (stepRegister Cpu.y State.setY decResult)) s

end Sys2Proof.Machine
end

