-- ==== Sys2Proof/Machine/Control.lean ====
section
/-! DEFINITION. Branches, jump, subroutine call and return (45_control_flow.md). -/

namespace Sys2Proof.Machine

/-- The cycles a taken branch adds: a second one when the target is on another page than the next
instruction (rule R212, decision D18). -/
def takenExtra (next target : Word) : Nat := if crossed next target then 2 else 1

/-- The common rule of the eight branches (rule R212): `PC` already holds the next instruction. -/
def branchWhen (cond : Byte → Bool) (r : Ref) (s : State) : Act Nat :=
  if cond s.cpu.p then
    (jumpRef r s).bind fun _ s' => .ok (takenExtra s.cpu.pc s'.cpu.pc) s'
  else .ok 0 s

/-- BCC (rule R213). -/
def execBcc (offset : Byte) (s : State) : Result :=
  operate .bcc (.relative offset) (branchWhen fun p => !flagC p) s

/-- BCS (rule R214). -/
def execBcs (offset : Byte) (s : State) : Result :=
  operate .bcs (.relative offset) (branchWhen fun p => flagC p) s

/-- BEQ (rule R215). -/
def execBeq (offset : Byte) (s : State) : Result :=
  operate .beq (.relative offset) (branchWhen fun p => flagZ p) s

/-- BNE (rule R216). -/
def execBne (offset : Byte) (s : State) : Result :=
  operate .bne (.relative offset) (branchWhen fun p => !flagZ p) s

/-- BMI (rule R217). -/
def execBmi (offset : Byte) (s : State) : Result :=
  operate .bmi (.relative offset) (branchWhen fun p => flagN p) s

/-- BPL (rule R218). -/
def execBpl (offset : Byte) (s : State) : Result :=
  operate .bpl (.relative offset) (branchWhen fun p => !flagN p) s

/-- BVC (rule R219). -/
def execBvc (offset : Byte) (s : State) : Result :=
  operate .bvc (.relative offset) (branchWhen fun p => !flagV p) s

/-- BVS (rule R220). -/
def execBvs (offset : Byte) (s : State) : Result :=
  operate .bvs (.relative offset) (branchWhen fun p => flagV p) s

/-- JMP (rule R221): no read of the target is made. -/
def execJmp (target : Operand) (s : State) : Result :=
  operate .jmp target (fun r s => noExtra (jumpRef r s)) s

/-- JSR (rule R222): push the address of its own last byte, high byte first. -/
def execJsr (target : Word) (s : State) : Result :=
  operate .jsr (.absolute target)
    (fun r s => noExtra ((push16 (s.cpu.pc - 1) s).bind fun _ s => jumpRef r s)) s

/-- RTS (rule R223): pull the address, low byte first, and add one. -/
def execRts (s : State) : Result :=
  operate .rts .implied (fun _ s => (pull16 s).bind fun a s => .ok 0 (s.setPc (a + 1))) s

end Sys2Proof.Machine
end

