-- ==== Sys2Proof/Machine/LoadStore.lean ====
section
/-! DEFINITION. Loads, stores and register transfers (41_load_store_transfer.md). -/

namespace Sys2Proof.Machine

/-- Load a register from the operand and set N and Z from it (rules R161 to R163). -/
def loadInto (set : Byte → State → State) (r : Ref) (s : State) : Act Nat :=
  (readRef r s).bind fun m s => .ok 0 (set m (s.setP (setNZ m s.cpu.p)))

/-- LDA (rule R161). -/
def execLda (src : Operand) (s : State) : Result := operate .lda src (loadInto State.setA) s

/-- LDX (rule R162). -/
def execLdx (src : Operand) (s : State) : Result := operate .ldx src (loadInto State.setX) s

/-- LDY (rule R163). -/
def execLdy (src : Operand) (s : State) : Result := operate .ldy src (loadInto State.setY) s

/-- Store a register to the operand; no flag changes (rules R164 to R166). -/
def storeFrom (get : Cpu → Byte) (r : Ref) (s : State) : Act Nat := noExtra (writeRef r (get s.cpu) s)

/-- STA (rule R164). -/
def execSta (dst : Operand) (s : State) : Result := operate .sta dst (storeFrom Cpu.a) s

/-- STX (rule R165). -/
def execStx (dst : Operand) (s : State) : Result := operate .stx dst (storeFrom Cpu.x) s

/-- STY (rule R166). -/
def execSty (dst : Operand) (s : State) : Result := operate .sty dst (storeFrom Cpu.y) s

/-- Copy a value to a register and set N and Z from it (rules R167 to R171). -/
def transfer (get : Cpu → Byte) (set : Byte → State → State) (s : State) : State :=
  set (get s.cpu) (s.setP (setNZ (get s.cpu) s.cpu.p))

/-- TAX (rule R167). -/
def execTax (s : State) : Result := operate .tax .implied (plain (transfer Cpu.a State.setX)) s

/-- TAY (rule R168). -/
def execTay (s : State) : Result := operate .tay .implied (plain (transfer Cpu.a State.setY)) s

/-- TXA (rule R169). -/
def execTxa (s : State) : Result := operate .txa .implied (plain (transfer Cpu.x State.setA)) s

/-- TYA (rule R170). -/
def execTya (s : State) : Result := operate .tya .implied (plain (transfer Cpu.y State.setA)) s

/-- TSX (rule R171). -/
def execTsx (s : State) : Result := operate .tsx .implied (plain (transfer Cpu.sp State.setX)) s

/-- TXS (rule R172): no flag changes. -/
def execTxs (s : State) : Result := operate .txs .implied (plain fun s => s.setSp s.cpu.x) s

end Sys2Proof.Machine
end

