-- ==== Sys2Proof/Machine/Logic.lean ====
section
/-! DEFINITION. Logic, bit test, shifts and rotates (44_logic_shift.md). -/

namespace Sys2Proof.Machine

/-- A logical operation on `A` with N and Z from the result (rules R200 to R202). -/
def logicResult (f : Byte → Byte → Byte) (a m p : Byte) : Byte × Byte := (f a m, setNZ (f a m) p)

/-- AND (rule R200). -/
def execAnd (src : Operand) (s : State) : Result :=
  operate .and src (accumulate (logicResult fun a m => a &&& m) fun _ => 0) s

/-- ORA (rule R201). -/
def execOra (src : Operand) (s : State) : Result :=
  operate .ora src (accumulate (logicResult fun a m => a ||| m) fun _ => 0) s

/-- EOR (rule R202). -/
def execEor (src : Operand) (s : State) : Result :=
  operate .eor src (accumulate (logicResult fun a m => a ^^^ m) fun _ => 0) s

/-- BIT (rule R203): `A` is unchanged. -/
def execBit (src : Operand) (s : State) : Result :=
  operate .bit src
    (fun r s => (readRef r s).bind fun m s => .ok 0 (s.setP (bitFlags s.cpu.a m s.cpu.p))) s

/-- A shift or rotate (rules R204 to R208): read the operand, put the new status in `P`, then write the
result back to the same place, so that a halted write keeps the new status (rule R246). That C precedes the
write is the rules' order; that N and Z do too is DEDUCED (notes/assumptions 19). -/
def shiftOperand (f : Byte → Byte → Byte × Byte) (r : Ref) (s : State) : Act Nat :=
  (readRef r s).bind fun m s => noExtra (writeRef r (f m s.cpu.p).1 (s.setP (f m s.cpu.p).2))

/-- ASL (rules R204, R208). -/
def execAsl (dst : Operand) (s : State) : Result := operate .asl dst (shiftOperand aslResult) s

/-- LSR (rules R205, R208). -/
def execLsr (dst : Operand) (s : State) : Result := operate .lsr dst (shiftOperand lsrResult) s

/-- ROL (rules R206, R208). -/
def execRol (dst : Operand) (s : State) : Result := operate .rol dst (shiftOperand rolResult) s

/-- ROR (rules R207, R208). -/
def execRor (dst : Operand) (s : State) : Result := operate .ror dst (shiftOperand rorResult) s

end Sys2Proof.Machine
end

