-- ==== Sys2Proof/Machine/Stack.lean ====
section
/-! DEFINITION. The stack instructions (42_stack.md). -/

namespace Sys2Proof.Machine

/-- PHA (rule R178). -/
def execPha (s : State) : Result := operate .pha .implied (fun _ s => noExtra (push s.cpu.a s)) s

/-- PHP (rule R179): bits 4 and 5 set in the pushed byte, `P` unchanged. -/
def execPhp (s : State) : Result :=
  operate .php .implied (fun _ s => noExtra (push (pushedByInstruction s.cpu.p) s)) s

/-- PLA (rule R180). -/
def execPla (s : State) : Result :=
  operate .pla .implied
    (fun _ s => (pull s).bind fun b s => .ok 0 ((s.setP (setNZ b s.cpu.p)).setA b)) s

/-- PLP (rule R181). -/
def execPlp (s : State) : Result :=
  operate .plp .implied (fun _ s => (pull s).bind fun b s => .ok 0 (s.setP (pulledStatus b))) s

end Sys2Proof.Machine
end

