-- ==== Sys2Proof/Machine/System.lean ====
section
/-! DEFINITION. Flag instructions, NOP, BRK, RTI (46_flags_system.md) and the fatal halt of an illegal
opcode byte (rules R115, R245, R246). -/

namespace Sys2Proof.Machine

/-- Write one flag (rules R228 to R234). -/
def writeFlag (mask : Byte) (b : Bool) (s : State) : State := s.setP (withFlag mask b s.cpu.p)

/-- CLC (rule R228). -/
def execClc (s : State) : Result := operate .clc .implied (plain (writeFlag maskC false)) s

/-- SEC (rule R229). -/
def execSec (s : State) : Result := operate .sec .implied (plain (writeFlag maskC true)) s

/-- CLI (rule R230). -/
def execCli (s : State) : Result := operate .cli .implied (plain (writeFlag maskI false)) s

/-- SEI (rule R231). -/
def execSei (s : State) : Result := operate .sei .implied (plain (writeFlag maskI true)) s

/-- CLV (rule R232). -/
def execClv (s : State) : Result := operate .clv .implied (plain (writeFlag maskV false)) s

/-- CLD (rule R233). -/
def execCld (s : State) : Result := operate .cld .implied (plain (writeFlag maskD false)) s

/-- SED (rule R234). -/
def execSed (s : State) : Result := operate .sed .implied (plain (writeFlag maskD true)) s

/-- NOP (rule R235). -/
def execNop (s : State) : Result := operate .nop .implied (plain id) s

/-- BRK (rule R236). -/
def execBrk (s : State) : Result := operate .brk .implied (fun _ s => noExtra (breakEntry s)) s

/-- RTI (rule R237). -/
def execRti (s : State) : Result :=
  operate .rti .implied (fun _ s => noExtra (returnFromInterrupt s)) s

/-- An illegal opcode byte (rules R115, R245, R246): the machine halts with `PC` past the byte. -/
def execIllegal (opcode : Byte) (s : State) : Result :=
  complete 0 (raise (.illegalOpcode opcode (s.cpu.pc - 1)) s)

end Sys2Proof.Machine
end

