-- ==== Sys2Proof/Machine/Render.lean ====
section
/-! DEFINITION. The PPU's step `clock()` and all it does: pixel generation (rules R304 to R310), the
render states (rules R297 to R303), sprite evaluation and the scanline-IRQ hook. -/

namespace Sys2Proof.Machine

/-- What `clock()` returns (rule R280). -/
inductive PpuEvent where
  | generateNMI | generateIRQ | generateNoInterrupt
  deriving DecidableEq, Repr

/-- The two bits of a pattern row at bit `b` (rules R304, R305): plane 0 is the low bit. -/
def patternBits (lo hi : Byte) (b : Nat) : BitVec 2 :=
  (if hi.getLsbD b then 2 else 0) ||| (if lo.getLsbD b then 1 else 0)

/-- `BackgroundPixel(px)` (rule R304): the pixel value and the palette number. -/
def backgroundPixel (s : State) (px : Nat) : BitVec 2 × BitVec 2 :=
  if !s.ppu.mask.getLsbD 3 || (px < 8 && !s.ppu.mask.getLsbD 1) then (0, 0)
  else
    let v := busAddr s.ppu.v
    let nt := ppuRead s (0x2000 ||| (v &&& 0x0FFF))
    let at_ := ppuRead s (0x23C0 ||| (v &&& 0x0C00) ||| ((v >>> 4) &&& 0x38) ||| ((v >>> 2) &&& 0x07))
    let shift := (((v >>> 4) &&& 4) ||| (v &&& 2)).toNat
    let fineY : PpuAddr := (s.ppu.v.extractLsb' 12 3).setWidth 14
    let pa : PpuAddr :=
      (if s.ppu.ctrl.getLsbD 4 then 0x1000 else 0) ||| (nt.setWidth 14 <<< 4) ||| fineY
    let b := 7 - (s.ppu.x.toNat + px) % 8
    (patternBits (ppuRead s pa) (ppuRead s (pa + 8)) b, (at_ >>> shift).setWidth 2)

/-- A sprite pixel: its value, palette number, priority bit, and whether it is OAM entry 0. -/
structure SpritePixel where
  value  : BitVec 2
  pal    : BitVec 2
  behind : Bool
  isZero : Bool
  deriving DecidableEq, Repr

/-- No sprite (rule R305). -/
def noSprite : SpritePixel := ⟨0, 0, false, false⟩

/-- The height of a sprite (rules R281, R305, R308). -/
def spriteHeight (p : Ppu) : Nat := if p.ctrl.getLsbD 5 then 16 else 8

/-- Byte `k` of OAM entry `i` (rules R37, R310). -/
def oamByte (p : Ppu) (i : BitVec 6) (k : Nat) : Byte := readCell p.oam (4 * i.toNat + k)

/-- The pattern address of row `row` of a tile (rule R305). -/
def spritePattern (p : Ppu) (tile : Byte) (row : Nat) : PpuAddr :=
  if spriteHeight p = 8 then
    BitVec.ofNat 14 ((if p.ctrl.getLsbD 3 then 0x1000 else 0) + tile.toNat * 16 + row)
  else
    BitVec.ofNat 14 (tile.toNat % 2 * 0x1000 + (tile.toNat / 2 * 2 + row / 8) * 16 + row % 8)

/-- The pixel OAM entry `i` shows at column `px` of scanline `line`, if it covers it with a value other
than 0 (the loop body of rule R305). -/
def spriteAt (s : State) (px line : Nat) (i : BitVec 6) : Option SpritePixel :=
  let x := (oamByte s.ppu i 3).toNat
  let y := (oamByte s.ppu i 0).toNat
  let h := spriteHeight s.ppu
  if px < x || x + 7 < px then none
  else if line < y + 1 || y + h < line then none
  else
    let dx := px - x
    let attr := oamByte s.ppu i 2
    let row := line - 1 - y
    let row := if attr.getLsbD 7 then h - 1 - row else row
    let pa := spritePattern s.ppu (oamByte s.ppu i 1) row
    let b := if attr.getLsbD 6 then dx else 7 - dx
    let value := patternBits (ppuRead s pa) (ppuRead s (pa + 8)) b
    if value = 0 then none else some ⟨value, attr.setWidth 2, attr.getLsbD 5, i == 0⟩

/-- The sprite indices cached for the scanline, in OAM order (rules R38, R305). -/
def cachedSprites (p : Ppu) : List (BitVec 6) := p.secIndex.toList.take p.secCount

/-- `SpritePixel(px, line)` (rule R305): the first opaque cached sprite. -/
def spritePixel (s : State) (px line : Nat) : SpritePixel :=
  if !s.ppu.mask.getLsbD 4 || (px < 8 && !s.ppu.mask.getLsbD 2) then noSprite
  else ((cachedSprites s.ppu).findSome? (spriteAt s px line)).getD noSprite

/-- The palette entry `Colour` looks up (rule R307). -/
def colourIndex (bg bgpal : BitVec 2) (sp : SpritePixel) : Nat :=
  if bg = 0 && sp.value = 0 then 0
  else if sp.value = 0 then bgpal.toNat * 4 + bg.toNat
  else if bg = 0 then 0x10 + sp.pal.toNat * 4 + sp.value.toNat
  else if sp.behind then bgpal.toNat * 4 + bg.toNat
  else 0x10 + sp.pal.toNat * 4 + sp.value.toNat

/-- `SYSTEM_PALETTE(c)` (rules R6, R307): the colour table is the machine's parameter. -/
def systemColour (s : State) (c : BitVec 6) : Rgba := readCell s.systemPalette c.toNat

/-- `Colour(bg, bgpal, sp, sppal, behind)` (rule R307). -/
def colour (s : State) (bg bgpal : BitVec 2) (sp : SpritePixel) : Rgba :=
  systemColour s ((readCell s.ppu.palette (colourIndex bg bgpal sp)).setWidth 6)

/-- The cell of `pixels` for a column of a scanline (rule R40). -/
def pixelIndex (line px : Nat) : Nat := line * 256 + px

/-- `pixels[line][px]` (rule R40), as the host reads it. -/
def pixelAt (s : State) (line px : Nat) : Rgba := readCell s.ppu.pixels (pixelIndex line px)

/-- The pixel of dots 1 to 256 (rule R298): sprite-zero hit, output, coarse-X increment. -/
def drawPixel (s : State) : State :=
  let px := s.ppu.cycle - 1
  let bg := backgroundPixel s px
  let sp := spritePixel s px s.ppu.scanline
  let hit := sp.isZero && bg.1 != 0 && sp.value != 0 && px != 255
  { s with
    ppu.sprite0Hit := s.ppu.sprite0Hit || hit
    ppu.pixels := writeCell s.ppu.pixels (pixelIndex s.ppu.scanline px) (colour s bg.1 bg.2 sp)
    ppu.v :=
      if rendering s.ppu && (s.ppu.x.toNat + px) % 8 == 7 then incrementX s.ppu.v else s.ppu.v }

/-- The scanline-IRQ hook of dot 260 (rule R309). -/
def scanlineHook (s : State) : PpuEvent × State :=
  if s.ppu.cycle = 260 && rendering s.ppu then
    let (irq, c) := scanlineIrq s.cart
    (if irq then .generateIRQ else .generateNoInterrupt, { s with cart := c })
  else (.generateNoInterrupt, s)

/-- Whether OAM entry `i` shows on the scanline after `line` (rule R308). -/
def selects (p : Ppu) (line : Nat) (i : BitVec 6) : Bool :=
  let y := (oamByte p i 0).toNat
  y ≤ line && line < y + spriteHeight p

/-- The OAM entries that show on the scanline after `line`, in OAM order. -/
def candidates (p : Ppu) (line : Nat) : List (BitVec 6) :=
  ((List.range 64).map (BitVec.ofNat 6)).filter (selects p line)

/-- Put the selected indices into secondary OAM from slot `k` up. -/
def cacheFrom (k : Nat) (is : List (BitVec 6)) (v : Vector (BitVec 6) 8) : Vector (BitVec 6) 8 :=
  match is with
  | [] => v
  | i :: is => if h : k < 8 then cacheFrom (k + 1) is (v.set k i h) else v

/-- `EvaluateSprites(line)` (rule R308): the first eight candidates, and the overflow flag if there is a
ninth while rendering is enabled. -/
def evaluateSprites (line : Nat) (p : Ppu) : Ppu :=
  let found := candidates p line
  { p with
    secCount := min found.length 8
    secIndex := cacheFrom 0 found p.secIndex
    spriteOverflow := p.spriteOverflow || (decide (8 < found.length) && rendering p) }

/-- Apply a change of `v` while rendering is enabled (decision D30). -/
def whenRendering (f : Ppu → Scroll) (s : State) : State :=
  if rendering s.ppu then { s with ppu.v := f s.ppu } else s

/-- `RenderDot()` (rule R298). -/
def renderDot (s : State) : PpuEvent × State :=
  let s := if 1 ≤ s.ppu.cycle && s.ppu.cycle ≤ 256 then drawPixel s else s
  let s := if s.ppu.cycle = 256 then whenRendering (fun p => incrementY p.v) s else s
  let s := if s.ppu.cycle = 257 then whenRendering (fun p => copyHorizontal p.v p.t) s else s
  let (e, s) := scanlineHook s
  (e, if s.ppu.cycle = 340 then { s with ppu := evaluateSprites s.ppu.scanline s.ppu } else s)

/-- `VBlankDot()` (rule R300). -/
def vblankDot (s : State) : PpuEvent × State :=
  if s.ppu.scanline = 242 && s.ppu.cycle = 0 then
    (if s.ppu.ctrl.getLsbD 7 then .generateNMI else .generateNoInterrupt,
      { s with ppu.vblank := true })
  else (.generateNoInterrupt, s)

/-- `PreRenderDot()` (rule R301). -/
def preRenderDot (s : State) : PpuEvent × State :=
  let s :=
    if s.ppu.cycle = 1 then
      { s with ppu.vblank := false, ppu.sprite0Hit := false, ppu.spriteOverflow := false }
    else s
  let s := if s.ppu.cycle = 257 then whenRendering (fun p => copyHorizontal p.v p.t) s else s
  let (e, s) := scanlineHook s
  let s :=
    if 280 ≤ s.ppu.cycle && s.ppu.cycle ≤ 304 then whenRendering (fun p => copyVertical p.v p.t) s
    else s
  (e, if s.ppu.cycle = 339 then { s with ppu.secCount := 0 } else s)

/-- The last dot of the scanline (rule R297): dot 339 on the PreRender line of an odd frame. -/
def lastDot (p : Ppu) : Nat := if p.renderState = .preRender && p.oddFrame then 339 else 340

/-- `Advance()` (rule R297). -/
def advance (p : Ppu) : Ppu :=
  if p.cycle < lastDot p then { p with cycle := p.cycle + 1 }
  else if p.scanline = 239 then { p with cycle := 0, scanline := 240, renderState := .postRender }
  else if p.scanline = 241 then
    { p with cycle := 0, scanline := 242, renderState := .verticalBlanking }
  else if p.scanline = 260 then { p with cycle := 0, scanline := 261, renderState := .finished }
  else if p.scanline = 261 then
    { p with cycle := 0, scanline := 0, renderState := .render, oddFrame := !p.oddFrame }
  else { p with cycle := 0, scanline := p.scanline + 1 }

/-- The dot's action of `clock()` by render state (rules R295, R299). -/
def dotAction (s : State) : PpuEvent × State :=
  match s.ppu.renderState with
  | .render => renderDot s
  | .postRender => (.generateNoInterrupt, s)
  | .verticalBlanking => vblankDot s
  | .preRender => preRenderDot s
  | .finished => (.generateNoInterrupt, s)

/-- `clock()` (rule R295). -/
def clock (s : State) : PpuEvent × State :=
  if s.halted.isSome || s.ppu.renderState = .finished then (.generateNoInterrupt, s)
  else
    let (e, s) := dotAction s
    (e, { s with ppu := advance s.ppu })

/-- `ResetFrame()` (rule R302). -/
def resetFrame (s : State) : State :=
  if s.ppu.renderState = .finished then { s with ppu.renderState := .preRender } else s

end Sys2Proof.Machine
end

