-- ==== Sys2Proof/Machine/Tick.lean ====
section
/-! DEFINITION. Fetching an instruction, `Boundary()`, `tick()`, the request latches, OAM DMA and the
system step (rules R91, R240 to R246, R251, R264). -/

namespace Sys2Proof.Machine

/-- Fetch the operand bytes of an opcode and make its instruction (rules R110, R113, R157). The byte of
an Immediate operand is read by the operation (rule R143), with `PC` already past it. -/
def fetchOperands (opcode : Byte) (s : State) : Act Instr :=
  match operandBytesAfter opcode with
  | 0 => .ok (instrAt opcode 0 0) s
  | 1 =>
    (if (rowAt opcode).map Row.mode = some .immediate then fetchImmediate s else fetch s).bind
      fun op1 s => .ok (instrAt opcode op1 0) s
  | _ => (fetch s).bind fun op1 s => (fetch s).bind fun op2 s => .ok (instrAt opcode op1 op2) s

/-- Fetch the instruction at `PC` (rules R240, R241). -/
def fetchInstr (s : State) : Act Instr := (fetch s).bind fun opcode s => fetchOperands opcode s

/-- The last arm of `Boundary()`: fetch and execute the instruction at `PC` (rule R241). -/
def runInstr (s : State) : Result :=
  match fetchInstr s with
  | .ok i s => exec i s
  | .halt s => .next s

/-- An interrupt entry as the action of a boundary (rules R241, R252). -/
def takeInterrupt (vector : Word) (s : State) : Result :=
  complete interruptCycles (noExtra (interruptEntry vector s))

/-- `Boundary()` (rules R241, R251, R264): NMI, then IRQ where `P.I` is clear, then the instruction. The
cycle count it returns is left in `remaining_cycles`. -/
def boundary (s : State) : Result :=
  if s.cpu.nmiPending then takeInterrupt nmiVector { s with cpu.nmiPending := false }
  else
    let s' : State := { s with cpu.irqPending := false }
    if s.cpu.irqPending && !flagI s.cpu.p then takeInterrupt irqVector s' else runInstr s'

/-- The last two lines of `tick()` (rule R240), not performed after a halt (rule R246). -/
def countTick (s : State) : State :=
  if s.halted.isSome then s
  else { s with cpu.remainingCycles := s.cpu.remainingCycles - 1, cpu.tickCounter := s.cpu.tickCounter + 1 }

/-- `tick()` (rule R240). -/
def tick (s : State) : Result :=
  if s.halted.isSome then .next s
  else if s.cpu.remainingCycles = 0 then
    match boundary s with
    | .next s' => .next (countTick s')
    | .fault f => .fault f
    | .refused r => .refused r
  else .next (countTick s)

/-- `RequestNMI()` (rule R242). -/
def requestNmi (s : State) : State := { s with cpu.nmiPending := true }

/-- `RequestIRQ()` (rule R242). -/
def requestIrq (s : State) : State := { s with cpu.irqPending := true }

/-- Forward what `clock()` returned into the CPU (rule R243). -/
def forward (e : PpuEvent) (s : State) : State :=
  match e with
  | .generateNMI => requestNmi s
  | .generateIRQ => requestIrq s
  | .generateNoInterrupt => s

/-- One turn of the system step's loop (rule R243). -/
def dot (s : State) : State :=
  let r := clock (resetFrame s)
  forward r.1 r.2

/-- The three dots of a system step (rule R243). -/
def threeDots (s : State) : State := dot (dot (dot s))

/-- Copy `n` bytes to OAM, from byte `i` of the source page up (rule R91). -/
def dmaCopy (n i : Nat) (s : State) : Act Unit :=
  match n with
  | 0 => .ok () s
  | n + 1 =>
    (memRead (wordOf (BitVec.ofNat 8 i) s.bus.dmaPage) s).bind fun b s =>
      dmaCopy n (i + 1) { s with ppu := writeOam b s.ppu }

/-- The cycles an OAM DMA adds (rules R91, R416). -/
def dmaCycles (tickCounter : Nat) : Nat := 513 + tickCounter % 2

/-- `OamDma()` (rules R91, R246). -/
def oamDma (s : State) : State :=
  if s.halted.isSome then s
  else
    match dmaCopy 256 0 s with
    | .halt s => s
    | .ok _ s =>
      { s with
        cpu.remainingCycles := s.cpu.remainingCycles + dmaCycles s.cpu.tickCounter
        bus.dmaRequest := false }

/-- The end of a system step: the OAM DMA a tick has requested (rule R243). -/
def serveDma (s : State) : State := if s.bus.dmaRequest then oamDma s else s

/-- `SystemStep()` (rules R243, R246). -/
def systemStep (s : State) : Result :=
  if s.halted.isSome then .next s
  else
    match tick (threeDots s) with
    | .next s' => .next (serveDma s')
    | .fault f => .fault f
    | .refused r => .refused r

end Sys2Proof.Machine
end

