-- ==== Sys2Proof/Machine/Step.lean ====
section
/-! DEFINITION. The machine's step: the system step of rule R243, the only top-level step (U17 of
93_implementation_defined.md). -/

namespace Sys2Proof.Machine

/-- One system step: three dots, one tick, and any OAM DMA the tick requested (rule R243). -/
def step (s : State) : Host.Outcome State Fault Refusal := systemStep s

/-- Put bytes in the storage from a CPU address up (rule R26: addresses wrap). -/
def pokeBytes (a : Word) : List Byte → State → State
  | [], s => s
  | b :: bs, s => pokeBytes (a + 1) bs (poke a b s)

/-- Where `withFetchWord` puts an instruction: at `PC` where the three bytes there have storage, else at
`$0200`, to which `SetPC` (rule R406) then moves `PC`. -/
def fetchSite (s : State) : Word :=
  if backed s.cpu.pc s && backed (s.cpu.pc + 1) s && backed (s.cpu.pc + 2) s then s.cpu.pc else 0x0200

/-- `s` with an instruction stored where the next instruction is fetched, at an instruction boundary with
no request pending, so that the next step fetches and runs it (notes/assumptions 8). -/
def State.withFetchWord (s : State) (nbits w : Nat) : State :=
  let s' := pokeBytes (fetchSite s) (tableWordBytes nbits w) s
  { s' with
    halted := none
    cpu := { s'.cpu with pc := fetchSite s, remainingCycles := 0, nmiPending := false, irqPending := false } }

end Sys2Proof.Machine
end

