-- ==== Sys2Proof/Machine/Loader.lean ====
section
/-! DEFINITION. Loading a cartridge and power-on (rules R44 to R49, R341, R342, R349, R400), and the
host's actions (rules R410, D40). -/

namespace Sys2Proof.Machine

/-- The sizes of the fixed memories (rules R6, R33, R34, R37, R40, R41, R42). -/
def ramSize : Nat := 0x800
def paletteSize : Nat := 32
def oamSize : Nat := 256
def ntRamSize : Nat := 0x800
def chrRamSize : Nat := 8192
def pixelCount : Nat := 240 * 256
def systemPaletteSize : Nat := 64

/-- A memory of a given size in canonical form. -/
def storeOk {w : Nat} (size : Nat) (m : Store w) : Bool := storeWf m && storeWithin size m

/-- Whether the memories handed over are memories of the sizes of rule R6. -/
def memoriesGiven (p : Parameters) : Bool :=
  storeOk (p.prgUnits * 16384) p.prgRom && storeOk (p.chrUnits * 8192) p.chrRom &&
  storeOk ramSize p.ramInit && storeOk oamSize p.oamInit && storeOk paletteSize p.paletteInit &&
  storeOk (max p.prgRamUnits 1 * 8192) p.prgRamInit && storeOk chrRamSize p.chrRamInit &&
  storeOk ntRamSize p.ntRamInit && storeOk pixelCount p.pixelsInit &&
  storeOk systemPaletteSize p.systemPalette

/-- Which load precondition the parameters violate, if any (rule R342). -/
def loadError (p : Parameters) : Option LoadError :=
  if p.format ≠ .iNES then some .unsupportedFormat
  else if p.tvSystem ≠ .ntsc then some .unsupportedTvSystem
  else if p.fourScreen then some .alternateLayout
  else if p.prgUnits = 0 then some .noPrgRom
  else if p.chrUnits = 0 && !chrRamCapable p.mapperId then some .chrRamUnsupported
  else if (p.mirroring = .horizontal || p.mirroring = .vertical) && memoriesGiven p then none
  else some .outsideParameterType

/-- The mapper registers at load (rule R349, decision D37). -/
def loadMapper : MapperId → Mapper
  | .m000 => .m000
  | .m001 => .m001 ⟨0, 0, 0x0C, 0, 0, 0⟩
  | .m002 => .m002 0
  | .m003 => .m003 0
  | .m004 => .m004 ⟨0, #v[0, 2, 4, 5, 6, 7, 0, 1], 0, 0, false, false⟩
  | .m007 => .m007 0
  | .m011 => .m011 0
  | .m066 => .m066 0

/-- The bank offsets at load (rule R349). -/
def loadBanks (c : Cart) : Cart :=
  match c.mapper with
  | .m001 r => setChrBanks001 r (setPrgBanks001 r c)
  | .m002 _ => setChr8 0 (setPrg16 1 (-1) (setPrg16 0 0 c))
  | .m004 r => updateBanks004 r c
  | .m000 | .m003 _ | .m007 _ | .m011 _ | .m066 _ => setChr8 0 (setPrg32 0 c)

/-- The cartridge at load (rules R41, R49, R346, R349). -/
def loadCart (p : Parameters) : Cart :=
  loadBanks <| setMirroring p.mirroring
    { format := p.format, tvSystem := p.tvSystem, prgUnits := p.prgUnits, chrUnits := p.chrUnits,
      prgRamUnits := p.prgRamUnits, mirroring := p.mirroring, prgRom := p.prgRom,
      prgRam := p.prgRamInit, chr := if p.chrUnits = 0 then p.chrRamInit else p.chrRom,
      ntRam := p.ntRamInit, ntOffset := #v[0, 0, 0, 0], prgOff := #v[0, 0, 0, 0],
      chrOff := #v[0, 0, 0, 0, 0, 0, 0, 0], mapper := loadMapper p.mapperId }

/-- Power-on: the construction of the machine (rules R46 to R49, R400). No bus access. -/
def powerOn (p : Parameters) : State where
  cpu :=
    { a := 0x00, x := 0x00, y := 0x00, sp := 0x00, p := 0x20, pc := 0x0000, remainingCycles := 0,
      tickCounter := 0, nmiPending := false, irqPending := false }
  halted := none
  bus :=
    { ram := p.ramInit, openBus := 0x00, strobe := false, shift1 := 0x00, shift2 := 0x00,
      dmaRequest := false, dmaPage := 0x00 }
  ppu :=
    { palette := p.paletteInit, v := 0, t := 0, x := 0, w := false, ctrl := 0x00, mask := 0x00,
      vblank := false, sprite0Hit := false, spriteOverflow := false, oamAddr := 0x00,
      readBuffer := 0x00, oam := p.oamInit, secCount := 0, secIndex := #v[0, 0, 0, 0, 0, 0, 0, 0],
      renderState := .preRender, scanline := 261, cycle := 0, oddFrame := false,
      pixels := p.pixelsInit }
  cart := loadCart p
  buttons1 := p.buttons1
  buttons2 := p.buttons2
  systemPalette := p.systemPalette

/-- Load a cartridge and start the machine: power-on, always followed by one `Reset()` (rule R400). A
machine exists only where every load precondition holds (rule R342, U8). -/
def start (p : Parameters) : Except LoadError State :=
  match loadError p with
  | some e => .error e
  | none => .ok (hostReset (powerOn p))

/-- The parameters `State.reset` is the machine of (notes/assumptions 2 to 4). -/
def resetParameters : Parameters where
  mapperId := .m000
  format := .iNES
  tvSystem := .ntsc
  fourScreen := false
  mirroring := .horizontal
  prgUnits := 1
  chrUnits := 0
  prgRamUnits := 0
  prgRom := []
  chrRom := []
  ramInit := []
  oamInit := []
  paletteInit := []
  prgRamInit := []
  chrRamInit := []
  ntRamInit := []
  pixelsInit := []
  systemPalette := []
  buttons1 := 0x00
  buttons2 := 0x00

/-- The mapper of an id number (rule R6). -/
def mapperOfNumber (n : Nat) : Option MapperId :=
  if n = 0 then some .m000
  else if n = 1 then some .m001
  else if n = 2 then some .m002
  else if n = 3 then some .m003
  else if n = 4 then some .m004
  else if n = 7 then some .m007
  else if n = 11 then some .m011
  else if n = 66 then some .m066
  else none

/-- The format of bits 3:2 of header byte 7 and of bytes 12 to 15 (rule R341, notes/assumptions 11). -/
def formatOf (byte7 : Byte) (tail : List Byte) : RomFormat :=
  let id := byte7.extractLsb' 2 2
  if id = 2 then .nes20 else if id = 0 && tail.all (· == 0) then .iNES else .archaic

/-- Parse a ROM image (rule R341): the header's parameters and the raw PRG and CHR bytes, put into the
parameters that do not come from the image. -/
def parseImage (image : List Byte) (given : Parameters) : Except LoadError Parameters :=
  let byte (k : Nat) : Byte := image.getD k 0
  if image.take 4 ≠ [0x4E, 0x45, 0x53, 0x1A] then .error .malformedMagic
  else
    let prgUnits := (byte 4).toNat
    let chrUnits := (byte 5).toNat
    let trainer := if (byte 6).getLsbD 2 then 512 else 0
    let body := (image.drop 16).drop trainer
    if body.length < prgUnits * 16384 + chrUnits * 8192 then .error .truncatedImage
    else
      match mapperOfNumber (((byte 7) &&& 0xF0) ||| ((byte 6) >>> 4)).toNat with
      | none => .error .unsupportedMapper
      | some id =>
        .ok { given with
          mapperId := id
          format := formatOf (byte 7) [byte 12, byte 13, byte 14, byte 15]
          tvSystem := if (byte 9).getLsbD 0 then .pal else .ntsc
          fourScreen := (byte 6).getLsbD 3
          mirroring := if (byte 6).getLsbD 0 then .vertical else .horizontal
          prgUnits := prgUnits
          chrUnits := chrUnits
          prgRamUnits := (byte 8).toNat
          prgRom := storeOfList 0 (body.take (prgUnits * 16384))
          chrRom := storeOfList 0 ((body.drop (prgUnits * 16384)).take (chrUnits * 8192)) }

/-- `SetPC(addr)` (rule R406), allowed where `remaining_cycles` has run down or straight after
`Reset()`. -/
def setPC (a : Word) (s : State) : State := s.setPc a

/-- What the host may do between two system steps (rules R410, R242, R302, R406, decision D40). -/
inductive HostAction where
  | reset
  | setPC (address : Word)
  | setButtons (buttons1 buttons2 : Byte)
  deriving DecidableEq, Repr

/-- The effect of a host action. -/
def hostAct (h : HostAction) (s : State) : State :=
  match h with
  | .reset => hostReset s
  | .setPC a => setPC a s
  | .setButtons b1 b2 => { s with buttons1 := b1, buttons2 := b2 }

end Sys2Proof.Machine
end

