-- ==== Sys2Proof/Safety.lean ====
section
/-! DEFINITION. The terms claims are made in: a running machine, the invariants of the state, the states a
run reaches, and the pixel of a dot in numbers. -/

namespace Sys2Proof.Machine

/-- Safe: the machine has not halted (rule R32; 00_scope.md section 8). -/
def State.running (s : State) : Prop := s.halted = none

/-- The invariant of the status register (rules R25, D47): `P & 0x30 == 0x20`. -/
def StatusInv (s : State) : Prop := s.cpu.p &&& 0x30 = 0x20

/-- Every memory is canonical and lists only cells it has (rules R33, R34, R37, R40 to R42). -/
def MemoryInv (s : State) : Prop :=
  storeOk ramSize s.bus.ram ∧ storeOk paletteSize s.ppu.palette ∧ storeOk oamSize s.ppu.oam ∧
  storeOk pixelCount s.ppu.pixels ∧ storeOk ntRamSize s.cart.ntRam ∧
  storeOk (prgSize s.cart) s.cart.prgRom ∧ storeOk (prgRamSize s.cart) s.cart.prgRam ∧
  storeOk (chrSize s.cart) s.cart.chr

/-- The mapper's shift count stays below five (rule R43). -/
def shiftCountOk : Mapper → Prop
  | .m001 r => r.shiftCount ≤ 4
  | _ => True

/-- The cartridge's sizes are legal and every bank offset is that of a bank present (rules R342, R346,
R347). -/
def BankInv (c : Cart) : Prop :=
  0 < c.prgUnits ∧
  (∀ i : Fin 4, c.prgOff[i] + 8192 ≤ prgSize c ∧ c.prgOff[i] % 8192 = 0) ∧
  (∀ i : Fin 8, c.chrOff[i] + 1024 ≤ chrSize c ∧ c.chrOff[i] % 1024 = 0) ∧
  c.ntOffset = mirrorOffsets c.mirroring ∧
  shiftCountOk c.mapper

/-- Which scanlines a render state covers (rules R297, R302). -/
def scanlinesOf : RenderState → Nat → Prop
  | .render, n => n ≤ 239
  | .postRender, n => 240 ≤ n ∧ n ≤ 241
  | .verticalBlanking, n => 242 ≤ n ∧ n ≤ 260
  | .preRender, n => n = 261
  | .finished, n => n = 261

/-- The PPU's position is one of the frame's (rules R39, R297), and secondary OAM holds at most eight
indices (rule R38). -/
def PositionInv (p : Ppu) : Prop :=
  scanlinesOf p.renderState p.scanline ∧ p.cycle ≤ lastDot p ∧
  (p.renderState = .finished → p.cycle = 0) ∧ p.secCount ≤ 8

/-- Between steps `remaining_cycles` is at most 520 and no DMA request is outstanding, unless the machine
halted inside the DMA (rules R91, R412). -/
def CycleInv (s : State) : Prop :=
  s.cpu.remainingCycles ≤ 520 ∧ (s.bus.dmaRequest = true → s.halted.isSome = true)

/-- The states of a run: power-on with parameters that load and one `Reset()`, then system steps with
host actions between them (rules R243, R400). -/
inductive Reachable : State → Prop where
  | start (p : Parameters) (s : State) (h : start p = .ok s) : Reachable s
  | step (s t : State) (hs : Reachable s) (h : step s = .next t) : Reachable t
  | host (a : HostAction) (s : State) (hs : Reachable s) : Reachable (hostAct a s)

/-- The byte an instruction's operand names, with the cycles its addressing mode adds (rules R140 to
R155, R161). -/
def operandByte (penalty : Bool) (o : Operand) (s : State) : Act (Byte × Nat) :=
  (address penalty o s).bind fun re s => (readRef re.1 s).bind fun m s => .ok (m, re.2) s

/-- The bytes at a CPU address and after it, read in order (rules R26, R110). -/
def readBytes : Nat → Word → State → Act (List Byte)
  | 0, _, s => .ok [] s
  | n + 1, a, s =>
    (memRead a s).bind fun b s => (readBytes n (a + 1) s).bind fun bs s => .ok (b :: bs) s

/-- The state after `n` reads of one CPU address. -/
def readTimes : Nat → Word → State → State
  | 0, _, s => s
  | n + 1, a, s => readTimes n a (memRead a s).state

/-- Two CPU addresses of one byte: equal, or mirrors of one RAM byte (rule R62). -/
def sameByte (a b : Word) : Bool :=
  a == b || (decide (a.toNat < 0x2000) && decide (b.toNat < 0x2000) && ramIndex a == ramIndex b)

/-- The instructions that write `A` (rule R50; the shifts only in Accumulator mode). -/
def writesA : Instr → Bool
  | .lda _ | .pla | .txa | .tya | .adc _ | .sbc _ | .and _ | .ora _ | .eor _
  | .asl .accumulator | .lsr .accumulator | .rol .accumulator | .ror .accumulator => true
  | _ => false

/-- The instructions that write `X` (rule R50). -/
def writesX : Instr → Bool
  | .ldx _ | .tax | .tsx | .inx | .dex => true
  | _ => false

/-- The instructions that write `Y` (rule R50). -/
def writesY : Instr → Bool
  | .ldy _ | .tay | .iny | .dey => true
  | _ => false

/-- The instructions that write `SP` (rule R50). -/
def writesSp : Instr → Bool
  | .txs | .pha | .php | .pla | .plp | .jsr _ | .rts | .brk | .rti => true
  | _ => false

/-- The flags of `P` each instruction writes, as a mask (rule R24, column "set by"); PLP and RTI load
the whole byte. -/
def flagsWritten : Instr → Byte
  | .plp | .rti => 0xFF
  | .adc _ | .sbc _ => maskN ||| maskV ||| maskZ ||| maskC
  | .bit _ => maskN ||| maskV ||| maskZ
  | .cmp _ | .cpx _ | .cpy _ | .asl _ | .lsr _ | .rol _ | .ror _ => maskN ||| maskZ ||| maskC
  | .lda _ | .ldx _ | .ldy _ | .tax | .tay | .txa | .tya | .tsx | .pla | .inc _ | .inx | .iny
  | .dec _ | .dex | .dey | .and _ | .ora _ | .eor _ => maskN ||| maskZ
  | .clc | .sec => maskC
  | .cli | .sei | .brk => maskI
  | .clv => maskV
  | .cld | .sed => maskD
  | .sta _ | .stx _ | .sty _ | .txs | .pha | .php | .bcc _ | .bcs _ | .beq _ | .bne _ | .bmi _
  | .bpl _ | .bvc _ | .bvs _ | .jmp _ | .jsr _ | .rts | .nop | .illegal _ => 0x00

/-- The instructions that make a bus write (rules R164 to R166, R178, R179, R192, R195, R208, R222,
R236). -/
def storesMemory : Instr → Bool
  | .sta _ | .stx _ | .sty _ | .inc _ | .dec _ | .pha | .php | .jsr _ | .brk => true
  | .asl o | .lsr o | .rol o | .ror o => o != .accumulator
  | _ => false

/-- Two PPU addresses of one byte: one pattern cell, one nametable cell or one palette cell (rules R80 to
R83). -/
def samePpuByte (c : Cart) (a b : PpuAddr) : Bool :=
  if a.toNat < 0x2000 then decide (b.toNat < 0x2000) && chrOffset c a == chrOffset c b
  else if a.toNat < 0x3F00 then
    decide (0x2000 ≤ b.toNat) && decide (b.toNat < 0x3F00) && ntIndex c a == ntIndex c b
  else decide (0x3F00 ≤ b.toNat) && palIndex a == palIndex b

/-- How many bytes an instruction pushes (rules R178, R179, R222, R236). -/
def pushedBytes : Instr → Nat
  | .pha | .php => 1
  | .jsr _ => 2
  | .brk => 3
  | _ => 0

/-- The word a vector holds (rules R72, R253). -/
def vectorAt (vector : Word) (s : State) : Word := wordOf (peek vector s) (peek (vector + 1) s)

/-- The whole invariant of a run. -/
structure MachineInv (s : State) : Prop where
  status   : StatusInv s
  memory   : MemoryInv s
  banks    : BankInv s.cart
  position : PositionInv s.ppu
  cycles   : CycleInv s

/-- Bit `k` of the PPU byte at address `a`, as a number. -/
def ppuBit (s : State) (a k : Nat) : Nat := (ppuRead s (BitVec.ofNat 14 a)).toNat / 2 ^ k % 2

/-- The pixel value in column `k` (0 is the leftmost) of the pattern row at address `a`: plane 1 is eight
bytes after plane 0 (rules R304, R305). -/
def patternValue (s : State) (a k : Nat) : Nat := 2 * ppuBit s (a + 8) (7 - k) + ppuBit s a (7 - k)

/-- The background's pixel value and palette number at column `px`, in numbers: the tile at coarse X and Y
of its nametable, row fine Y, and the attribute quadrant of the tile (rule R304). -/
def backgroundNumbers (s : State) (px : Nat) : Nat × Nat :=
  let v := s.ppu.v.toNat
  let cx := v % 32
  let cy := v / 32 % 32
  let nt := v / 1024 % 4
  let tile := (ppuRead s (BitVec.ofNat 14 (0x2000 + 1024 * nt + 32 * cy + cx))).toNat
  let attr := (ppuRead s (BitVec.ofNat 14 (0x23C0 + 1024 * nt + 8 * (cy / 4) + cx / 4))).toNat
  let base := if s.ppu.ctrl.getLsbD 4 then 0x1000 else 0
  if s.ppu.mask.getLsbD 3 = false ∨ px < 8 ∧ s.ppu.mask.getLsbD 1 = false then (0, 0)
  else (patternValue s (base + 16 * tile + v / 4096) ((s.ppu.x.toNat + px) % 8),
    attr / 4 ^ (2 * (cy / 2 % 2) + cx / 2 % 2) % 4)

/-- Byte `k` of OAM entry `i`, as a number (rule R310). -/
def oamNumber (s : State) (i k : Nat) : Nat := (readCell s.ppu.oam (4 * i + k)).toNat

/-- The pixel value of OAM entry `i` at column `px` of scanline `line`, 0 where it does not cover it: the
flips, and the pattern address of 8x8 and 8x16 sprites (rule R305). -/
def spriteNumber (s : State) (px line i : Nat) : Nat :=
  let x := oamNumber s i 3
  let y := oamNumber s i 0
  let tile := oamNumber s i 1
  let attr := oamNumber s i 2
  let h := if s.ppu.ctrl.getLsbD 5 then 16 else 8
  if x ≤ px ∧ px ≤ x + 7 ∧ y < line ∧ line ≤ y + h then
    let row := if attr / 128 = 1 then y + h - line else line - 1 - y
    let address :=
      if s.ppu.ctrl.getLsbD 5 then 0x1000 * (tile % 2) + 16 * (tile / 2 * 2 + row / 8) + row % 8
      else (if s.ppu.ctrl.getLsbD 3 then 0x1000 else 0) + 16 * tile + row
    patternValue s address (if attr / 64 % 2 = 1 then x + 7 - px else px - x)
  else 0

/-- The first cached OAM entry with a pixel value above 0, where sprites show (rules R38, R305). -/
def frontSprite (s : State) (px line : Nat) : Option Nat :=
  if s.ppu.mask.getLsbD 4 = false ∨ px < 8 ∧ s.ppu.mask.getLsbD 2 = false then none
  else ((s.ppu.secIndex.toList.take s.ppu.secCount).map BitVec.toNat).find?
    fun i => decide (0 < spriteNumber s px line i)

/-- The palette entry of the pixel at column `px` of scanline `line`: the backdrop, the background or the
sprite in front (rule R307). -/
def pixelEntry (s : State) (px line : Nat) : Nat :=
  let bg := backgroundNumbers s px
  match frontSprite s px line with
  | none => if bg.1 = 0 then 0 else 4 * bg.2 + bg.1
  | some i =>
    if bg.1 = 0 ∨ oamNumber s i 2 / 32 % 2 = 0 then
      16 + 4 * (oamNumber s i 2 % 4) + spriteNumber s px line i
    else 4 * bg.2 + bg.1

/-- The two-digit decimal number of a byte (rule R185). -/
def bcd (b : Byte) : Nat := b.toNat / 16 * 10 + b.toNat % 16

/-- Both digits of a byte are below ten. -/
def validBcd (b : Byte) : Bool := b.toNat / 16 < 10 && b.toNat % 16 < 10

end Sys2Proof.Machine
end

