-- ==== Sys2Proof/Certificates/Slice0/Obligations.lean ====
section
/-! DEFINITION. The statements for the provers, by file of spec/: encoding, addressing and flag laws; one
result and completion statement per shape of instruction; frames; exceptions and the step; the buses; the
PPU; the mappers; the invariants and reset. A free or chosen value is named in the docstring. -/

section

open Sys2Proof Sys2Proof.Machine

/-- 30_encoding.md: the bytes of a well-formed instruction decode to it, whatever follows them. Spec
decisions: D3 (notes/assumptions 17). -/
def Obligations.DecodeInvertsEncode : Prop :=
  ∀ (i : Instr) (rest : List Byte), wellFormed i = true → decode (encode i ++ rest) = .ok (i, rest)

/-- 30_encoding.md: whatever decodes is well-formed, and its bytes are those it was decoded from: no bit of
an encoding is ignored. Spec decisions: D3 (notes/assumptions 17). -/
def Obligations.EncodeInvertsDecode : Prop :=
  ∀ (bytes rest : List Byte) (i : Instr), decode bytes = .ok (i, rest) →
    wellFormed i = true ∧ encode i ++ rest = bytes

/-- R115: the illegal bytes are 105, each decodes alone to `illegal`, no other byte does, and executing one
halts the machine with its address and nothing else changed. That the halt is a next state is the model's
choice (notes/assumptions 1). Spec decisions: D11, D43 (notes/assumptions 17). -/
def Obligations.IllegalOpcodesHalt : Prop :=
  illegalBytes.length = 105 ∧ illegalBytes.Nodup ∧
  (∀ (b : Byte) (rest : List Byte), decode (b :: rest) = .ok (.illegal b, rest) ↔ b ∈ illegalBytes) ∧
  ∀ (b : Byte) (s : State),
    exec (.illegal b) s = .next { s with halted := some (.illegalOpcode b (s.cpu.pc - 1)) }

/-- R114: words written out from the opcode map decode to the instructions they stand for; bit 0 of a table
word is the least significant bit of the opcode byte. Spec decisions: D3 (notes/assumptions 17). -/
def Obligations.WordsOfTheMapDecode : Prop :=
  decode [0xA9, 0x42] = .ok (.lda (.immediate 0x42), []) ∧
  decode [0x96, 0x10] = .ok (.stx (.zeroPageY 0x10), []) ∧
  decode [0x7D, 0x34, 0x12] = .ok (.adc (.absoluteX 0x1234), []) ∧
  decode [0x0A] = .ok (.asl .accumulator, []) ∧
  decode [0x6C, 0xFF, 0x03] = .ok (.jmp (.indirect 0x03FF), []) ∧
  decode [0xF0, 0xFB] = .ok (.beq 0xFB, []) ∧
  decode [0x40] = .ok (.rti, []) ∧
  decodeTableWord 24 0x1234AD = some (.lda (.absolute 0x1234)) ∧
  decodeTableWord 8 0x02 = some (.illegal 0x02)

/-- R114, R120: the page penalty stands on the read instructions in AbsoluteX, AbsoluteY and IndirectY and
nowhere else; the indexed stores and read-modify-write rows have the fixed counts 5, 5, 6 and 7; and the map
has a row for exactly the 151 well-formed pairs of mnemonic and mode. The base counts of every row, by
family and mode. Spec decisions: D3, D4 (notes/assumptions 17). -/
def Obligations.OpcodeMapRows : Prop :=
  opcodeTable.length = 151 ∧
  (∀ mn m, (rowFor mn m).isSome = (allowedModes mn).contains m) ∧
  (∀ r ∈ opcodeTable, r.pagePenalty = true ↔
    r.mnemonic ∈ [.adc, .and, .cmp, .eor, .lda, .ldx, .ldy, .ora, .sbc] ∧
      r.mode ∈ [.absoluteX, .absoluteY, .indirectY]) ∧
  (∀ r ∈ opcodeTable, r.mnemonic = .sta → (r.mode = .absoluteX → r.baseCycles = 5) ∧
    (r.mode = .absoluteY → r.baseCycles = 5) ∧ (r.mode = .indirectY → r.baseCycles = 6)) ∧
  (∀ r ∈ opcodeTable, r.mnemonic ∈ [.asl, .lsr, .rol, .ror, .inc, .dec] → r.mode = .absoluteX →
    r.baseCycles = 7) ∧
  (∀ r ∈ opcodeTable,
    r.mnemonic ∈ [.adc, .and, .bit, .cmp, .cpx, .cpy, .eor, .lda, .ldx, .ldy, .ora, .sbc] →
    (r.mode, r.baseCycles) ∈ [(.immediate, 2), (.zeroPage, 3), (.zeroPageX, 4), (.zeroPageY, 4),
      (.absolute, 4), (.absoluteX, 4), (.absoluteY, 4), (.indirectX, 6), (.indirectY, 5)]) ∧
  (∀ r ∈ opcodeTable, r.mnemonic ∈ [.sta, .stx, .sty] →
    (r.mode, r.baseCycles) ∈ [(.zeroPage, 3), (.zeroPageX, 4), (.zeroPageY, 4), (.absolute, 4),
      (.absoluteX, 5), (.absoluteY, 5), (.indirectX, 6), (.indirectY, 6)]) ∧
  (∀ r ∈ opcodeTable, r.mnemonic ∈ [.asl, .lsr, .rol, .ror, .inc, .dec] →
    (r.mode, r.baseCycles) ∈ [(.accumulator, 2), (.zeroPage, 5), (.zeroPageX, 6), (.absolute, 6),
      (.absoluteX, 7)]) ∧
  (∀ r ∈ opcodeTable, r.mode = .relative → r.baseCycles = 2) ∧
  (∀ r ∈ opcodeTable, r.mnemonic ∈ [.jmp, .jsr] →
    (r.mnemonic, r.mode, r.baseCycles) ∈ [(.jmp, .absolute, 3), (.jmp, .indirect, 5), (.jsr, .absolute, 6)]) ∧
  ∀ r ∈ opcodeTable, r.mode = .implied → r.baseCycles =
    if r.mnemonic = .brk then 7 else if r.mnemonic ∈ [.rti, .rts] then 6
    else if r.mnemonic ∈ [.pha, .php] then 3 else if r.mnemonic ∈ [.pla, .plp] then 4 else 2

/-- R141 to R150, R154, R155: the modes that read no pointer, each with its wrap, and the page penalty as
the carry out of bit 7 of `base[7:0] + index`. That an Immediate operand stands as its value, with no
address, is the model's reading of R140 and R143 (notes/assumptions 9). Spec decisions: D4, D17
(notes/assumptions 17). -/
def Obligations.DirectAddressingModes : Prop :=
  ∀ (penalty : Bool) (b : Byte) (w : Word) (s : State),
    address penalty .implied s = .ok (.none, 0) s ∧
    address penalty .accumulator s = .ok (.accumulator, 0) s ∧
    address penalty (.immediate b) s = .ok (.value b, 0) s ∧
    address penalty (.zeroPage b) s = .ok (.memory (BitVec.ofNat 16 b.toNat), 0) s ∧
    address penalty (.zeroPageX b) s =
      .ok (.memory (BitVec.ofNat 16 ((b.toNat + s.cpu.x.toNat) % 256)), 0) s ∧
    address penalty (.zeroPageY b) s =
      .ok (.memory (BitVec.ofNat 16 ((b.toNat + s.cpu.y.toNat) % 256)), 0) s ∧
    address penalty (.relative b) s = .ok (.memory (BitVec.ofInt 16 (s.cpu.pc.toNat + b.toInt)), 0) s ∧
    address penalty (.absolute w) s = .ok (.memory w, 0) s ∧
    address penalty (.absoluteX w) s =
      .ok (.memory (BitVec.ofNat 16 (w.toNat + s.cpu.x.toNat)),
        if penalty = true ∧ 256 ≤ w.toNat % 256 + s.cpu.x.toNat then 1 else 0) s ∧
    address penalty (.absoluteY w) s =
      .ok (.memory (BitVec.ofNat 16 (w.toNat + s.cpu.y.toNat)),
        if penalty = true ∧ 256 ≤ w.toNat % 256 + s.cpu.y.toNat then 1 else 0) s

/-- R152, R153: IndirectX and IndirectY take both pointer bytes from page 0, which is RAM, so they never
halt; the only state they change is the latch. Spec decisions: D17 (notes/assumptions 17). -/
def Obligations.PointerAddressingModes : Prop :=
  ∀ (penalty : Bool) (z : Byte) (s : State),
    (let p := (z.toNat + s.cpu.x.toNat) % 256
     let lo := readCell s.bus.ram p
     let hi := readCell s.bus.ram ((p + 1) % 256)
     address penalty (.indirectX z) s =
      .ok (.memory (BitVec.ofNat 16 (hi.toNat * 256 + lo.toNat)), 0) (s.setOpenBus hi)) ∧
    (let lo := readCell s.bus.ram z.toNat
     let hi := readCell s.bus.ram ((z.toNat + 1) % 256)
     address penalty (.indirectY z) s =
      .ok (.memory (BitVec.ofNat 16 (hi.toNat * 256 + lo.toNat + s.cpu.y.toNat)),
        if penalty = true ∧ 256 ≤ lo.toNat + s.cpu.y.toNat then 1 else 0) (s.setOpenBus hi))

/-- R160, R199: `SetNZ` and `Compare`, bit by bit; the bits of `P` they do not name stay. Spec decisions:
D1; Compare's C is from general knowledge (R199) (notes/assumptions 17). -/
def Obligations.ZeroNegativeAndCompareFlags : Prop :=
  (∀ v p : Byte, flagZ (setNZ v p) = decide (v = 0) ∧ flagN (setNZ v p) = v.getLsbD 7 ∧
    setNZ v p &&& 0x7D = p &&& 0x7D) ∧
  ∀ r m p : Byte, flagC (compareFlags r m p) = decide (m.toNat ≤ r.toNat) ∧
    flagZ (compareFlags r m p) = decide (r = m) ∧
    flagN (compareFlags r m p) = (r - m).getLsbD 7 ∧
    compareFlags r m p &&& 0x7C = p &&& 0x7C

/-- R184: the sum and the four flags of `AddBinary`; I, D, B and U stay. Spec decisions: D1; C and V are
from general knowledge (R184) (notes/assumptions 17). -/
def Obligations.BinaryAddition : Prop :=
  ∀ a m p : Byte,
    let t := a.toNat + m.toNat + (if flagC p then 1 else 0)
    let r := (addBinary a m p).1
    let q := (addBinary a m p).2
    r.toNat = t % 256 ∧ flagC q = decide (255 < t) ∧
    flagV q = (((a ^^^ r) &&& (m ^^^ r)).getLsbD 7) ∧ flagZ q = decide (r = 0) ∧
    flagN q = r.getLsbD 7 ∧ q &&& 0x3C = p &&& 0x3C

/-- R184, R188, R198: read as two's complement, V says that the exact sum, or the exact difference with
borrow, is outside -128 to 127, and the result is that number modulo 256. Spec decisions: D1; C and V are
from general knowledge (R184) (notes/assumptions 17). -/
def Obligations.OverflowIsSignedOverflow : Prop :=
  ∀ a m p : Byte,
    (let exact : Int := a.toInt + m.toInt + (if flagC p then 1 else 0)
     flagV (addBinary a m p).2 = decide (exact < -128 ∨ 127 < exact) ∧
     (addBinary a m p).1 = BitVec.ofInt 8 exact) ∧
    (let exact : Int := a.toInt - m.toInt - (if flagC p then 0 else 1)
     flagV (addBinary a (m ^^^ 0xFF) p).2 = decide (exact < -128 ∨ 127 < exact) ∧
     (addBinary a (m ^^^ 0xFF) p).1 = BitVec.ofInt 8 exact ∧
     flagC (addBinary a (m ^^^ 0xFF) p).2 = decide (m.toNat + (if flagC p then 0 else 1) ≤ a.toNat))

/-- R185, R186: `AddDecimal` and `SubDecimal` on any bytes, digit by digit, with the flags each step of the
algorithm sets; I, D, B and U stay. Spec decisions: D15 (notes/assumptions 17). -/
def Obligations.DecimalAlgorithms : Prop :=
  (∀ a m p : Byte,
    let al := a.toNat % 16 + m.toNat % 16 + (if flagC p then 1 else 0)
    let al' := if 9 < al then (al + 6) % 16 + 16 else al
    let t := a.toNat / 16 * 16 + m.toNat / 16 * 16 + al'
    let t' := if 0x99 < t then t + 0x60 else t
    let q := (addDecimal a m p).2
    (addDecimal a m p).1.toNat = t' % 256 ∧ flagC q = decide (255 < t') ∧
    flagZ q = decide (t' % 256 = 0) ∧ flagN q = decide (t / 128 % 2 = 1) ∧
    flagV q = decide (a.toNat / 128 ≠ t / 128 % 2 ∧ m.toNat / 128 ≠ t / 128 % 2) ∧
    q &&& 0x3C = p &&& 0x3C) ∧
  ∀ a m p : Byte,
    let t := a.toNat + (255 - m.toNat) + (if flagC p then 1 else 0)
    let al : Int := (a.toNat % 16 : Nat) - (m.toNat % 16 : Nat) + (if flagC p then 1 else 0) - 1
    let al' : Int := if al < 0 then (al - 6) % 16 - 16 else al
    let r : Int := (a.toNat / 16 * 16 : Nat) - (m.toNat / 16 * 16 : Nat) + al'
    let r' : Int := if r < 0 then r - 0x60 else r
    let q := (subDecimal a m p).2
    ((subDecimal a m p).1.toNat : Int) = r' % 256 ∧ flagC q = decide (255 < t) ∧
    flagZ q = decide (r' % 256 = 0) ∧ flagN q = decide (t / 128 % 2 = 1) ∧
    flagV q = decide (a.toNat / 128 ≠ t / 128 % 2 ∧ (255 - m.toNat) / 128 ≠ t / 128 % 2) ∧
    q &&& 0x3C = p &&& 0x3C

/-- R185, R186 on bytes whose digits are below ten: the results are the decimal sum and difference, C is the
decimal carry and no-borrow, and the result's digits are below ten. Spec decisions: D15 (notes/assumptions
17). -/
def Obligations.DecimalArithmeticIsDecimal : Prop :=
  ∀ a m p : Byte, validBcd a = true → validBcd m = true →
    (validBcd (addDecimal a m p).1 = true ∧
      bcd (addDecimal a m p).1 + (if flagC (addDecimal a m p).2 then 100 else 0) =
        bcd a + bcd m + (if flagC p then 1 else 0)) ∧
    (validBcd (subDecimal a m p).1 = true ∧
      flagC (subDecimal a m p).2 = decide (bcd m + (if flagC p then 0 else 1) ≤ bcd a) ∧
      bcd (subDecimal a m p).1 + bcd m + (if flagC p then 0 else 1) =
        bcd a + (if flagC (subDecimal a m p).2 then 0 else 100))

/-- R204 to R207: each shift or rotate as an equation between nine-bit numbers, with N and Z from the
result; V, I, D, B and U stay. Spec decisions: D1 (notes/assumptions 17). -/
def Obligations.ShiftsAreNineBitEquations : Prop :=
  ∀ m p : Byte,
    let carry (q : Byte) : Nat := if flagC q then 1 else 0
    let rest (r : Byte × Byte) : Prop :=
      flagZ r.2 = decide (r.1 = 0) ∧ flagN r.2 = r.1.getLsbD 7 ∧ r.2 &&& 0x7C = p &&& 0x7C
    (2 * m.toNat = 256 * carry (aslResult m p).2 + (aslResult m p).1.toNat ∧ rest (aslResult m p)) ∧
    (m.toNat = 2 * (lsrResult m p).1.toNat + carry (lsrResult m p).2 ∧ rest (lsrResult m p)) ∧
    (2 * m.toNat + carry p = 256 * carry (rolResult m p).2 + (rolResult m p).1.toNat ∧
      rest (rolResult m p)) ∧
    (m.toNat + 256 * carry p = 2 * (rorResult m p).1.toNat + carry (rorResult m p).2 ∧
      rest (rorResult m p))

/-- R140, R143, R161, R162, R163: the operand byte of an Immediate operand is the byte itself, read without
a bus access of its own (notes/assumptions 9), and of an operand that names an address the byte read there,
both with the cycles the mode adds. Where the operand can be read, LDA, LDX and LDY complete, put it in
their register, set N and Z from it, take base cycles plus the page penalty, and change nothing beyond the
read. Spec decisions: D3 (notes/assumptions 17). -/
def Obligations.LoadsComplete : Prop :=
  (∀ (penalty : Bool) (b : Byte) (s : State), operandByte penalty (.immediate b) s = .ok (b, 0) s) ∧
  (∀ (penalty : Bool) (o : Operand) (s s1 : State) (a : Word) (e : Nat),
    address penalty o s = .ok (.memory a, e) s1 →
    (∀ m t, memRead a s1 = .ok m t → operandByte penalty o s = .ok (m, e) t) ∧
    ∀ t, memRead a s1 = .halt t → operandByte penalty o s = .halt t) ∧
  (∀ (penalty : Bool) (o : Operand) (s t : State),
    address penalty o s = .halt t → operandByte penalty o s = .halt t) ∧
  ∀ (o : Operand) (row : Row) (s s' : State) (m : Byte) (e : Nat),
    operandByte row.pagePenalty o s = .ok (m, e) s' →
    (rowFor .lda o.mode = some row → exec (.lda o) s = .next { s' with cpu := { s.cpu with
      a := m, p := setNZ m s.cpu.p, remainingCycles := row.baseCycles + e } }) ∧
    (rowFor .ldx o.mode = some row → exec (.ldx o) s = .next { s' with cpu := { s.cpu with
      x := m, p := setNZ m s.cpu.p, remainingCycles := row.baseCycles + e } }) ∧
    (rowFor .ldy o.mode = some row → exec (.ldy o) s = .next { s' with cpu := { s.cpu with
      y := m, p := setNZ m s.cpu.p, remainingCycles := row.baseCycles + e } })

/-- R164, R165, R166: where the write of the register at the operand's address does not halt, STA, STX and
STY complete with that one write, no register or flag changed, in the base cycles whatever the page. Spec
decisions: D3, D4 (notes/assumptions 17). -/
def Obligations.StoresComplete : Prop :=
  ∀ (o : Operand) (row : Row) (s s1 s2 : State) (a : Word) (e : Nat),
    address row.pagePenalty o s = .ok (.memory a, e) s1 →
    (rowFor .sta o.mode = some row → memWrite a s.cpu.a s1 = .ok () s2 →
      exec (.sta o) s = .next { s2 with cpu := { s.cpu with remainingCycles := row.baseCycles } }) ∧
    (rowFor .stx o.mode = some row → memWrite a s.cpu.x s1 = .ok () s2 →
      exec (.stx o) s = .next { s2 with cpu := { s.cpu with remainingCycles := row.baseCycles } }) ∧
    (rowFor .sty o.mode = some row → memWrite a s.cpu.y s1 = .ok () s2 →
      exec (.sty o) s = .next { s2 with cpu := { s.cpu with remainingCycles := row.baseCycles } })

/-- R167 to R172, R193, R194, R196, R197: the register transfers and the register increments and decrements
complete in two cycles and change their destination and, but for TXS, N and Z. Spec decisions: D3
(notes/assumptions 17). -/
def Obligations.RegisterInstructionsComplete : Prop :=
  ∀ s : State,
    let result (c : Cpu) : Result := .next { s with cpu := { c with remainingCycles := 2 } }
    let nz (v : Byte) : Byte := setNZ v s.cpu.p
    exec .tax s = result { s.cpu with x := s.cpu.a, p := nz s.cpu.a } ∧
    exec .tay s = result { s.cpu with y := s.cpu.a, p := nz s.cpu.a } ∧
    exec .txa s = result { s.cpu with a := s.cpu.x, p := nz s.cpu.x } ∧
    exec .tya s = result { s.cpu with a := s.cpu.y, p := nz s.cpu.y } ∧
    exec .tsx s = result { s.cpu with x := s.cpu.sp, p := nz s.cpu.sp } ∧
    exec .txs s = result { s.cpu with sp := s.cpu.x } ∧
    exec .inx s = result { s.cpu with x := s.cpu.x + 1, p := nz (s.cpu.x + 1) } ∧
    exec .iny s = result { s.cpu with y := s.cpu.y + 1, p := nz (s.cpu.y + 1) } ∧
    exec .dex s = result { s.cpu with x := s.cpu.x - 1, p := nz (s.cpu.x - 1) } ∧
    exec .dey s = result { s.cpu with y := s.cpu.y - 1, p := nz (s.cpu.y - 1) }

/-- R187, R188, R200, R201, R202: where the operand can be read, ADC, SBC, AND, ORA and EOR complete with
their result in `A`; decimal mode costs ADC and SBC one more cycle. Spec decisions: D3, D15
(notes/assumptions 17). -/
def Obligations.AccumulatorInstructionsComplete : Prop :=
  ∀ (o : Operand) (row : Row) (s s' : State) (m : Byte) (e : Nat),
    operandByte row.pagePenalty o s = .ok (m, e) s' →
    let decimal : Nat := if flagD s.cpu.p then 1 else 0
    let result (r : Byte × Byte) (more : Nat) : Result := .next { s' with cpu := { s.cpu with
      a := r.1, p := r.2, remainingCycles := row.baseCycles + e + more } }
    (rowFor .adc o.mode = some row → exec (.adc o) s = result
      (if flagD s.cpu.p then addDecimal s.cpu.a m s.cpu.p else addBinary s.cpu.a m s.cpu.p) decimal) ∧
    (rowFor .sbc o.mode = some row → exec (.sbc o) s = result
      (if flagD s.cpu.p then subDecimal s.cpu.a m s.cpu.p else addBinary s.cpu.a (m ^^^ 0xFF) s.cpu.p)
      decimal) ∧
    (rowFor .and o.mode = some row → exec (.and o) s =
      result (s.cpu.a &&& m, setNZ (s.cpu.a &&& m) s.cpu.p) 0) ∧
    (rowFor .ora o.mode = some row → exec (.ora o) s =
      result (s.cpu.a ||| m, setNZ (s.cpu.a ||| m) s.cpu.p) 0) ∧
    (rowFor .eor o.mode = some row → exec (.eor o) s =
      result (s.cpu.a ^^^ m, setNZ (s.cpu.a ^^^ m) s.cpu.p) 0)

/-- R189, R190, R191, R203: where the operand can be read, the compares and BIT complete and write flags
only; BIT's Z comes from the AND, its N and V from the memory byte, its other flags stay. Spec decisions:
D1, D3 (notes/assumptions 17). -/
def Obligations.ComparesAndBitComplete : Prop :=
  ∀ (o : Operand) (row : Row) (s s' : State) (m : Byte) (e : Nat),
    operandByte row.pagePenalty o s = .ok (m, e) s' →
    let result (q : Byte) : Result := .next { s' with cpu := { s.cpu with
      p := q, remainingCycles := row.baseCycles + e } }
    (rowFor .cmp o.mode = some row → exec (.cmp o) s = result (compareFlags s.cpu.a m s.cpu.p)) ∧
    (rowFor .cpx o.mode = some row → exec (.cpx o) s = result (compareFlags s.cpu.x m s.cpu.p)) ∧
    (rowFor .cpy o.mode = some row → exec (.cpy o) s = result (compareFlags s.cpu.y m s.cpu.p)) ∧
    (rowFor .bit o.mode = some row → exec (.bit o) s =
      result ((s.cpu.p &&& 0x3D) ||| (m &&& 0xC0) ||| (if s.cpu.a &&& m = 0 then 0x02 else 0x00)))

/-- R192, R195, R204 to R208: on memory, INC, DEC and the shifts complete with one read and one write of the
operand's address, in the base cycles whatever the page; in Accumulator mode the shifts complete on `A` in
two cycles with no bus access. Spec decisions: D3, D4, D16 (notes/assumptions 17). -/
def Obligations.ReadModifyWriteCompletes : Prop :=
  (∀ (o : Operand) (row : Row) (s s1 s2 s3 : State) (a : Word) (e : Nat) (m : Byte),
    address row.pagePenalty o s = .ok (.memory a, e) s1 → memRead a s1 = .ok m s2 →
    let completes (i : Instr) (mn : Mnemonic) (r : Byte × Byte) : Prop :=
      rowFor mn o.mode = some row → memWrite a r.1 s2 = .ok () s3 →
        exec i s = .next { s3 with cpu := { s.cpu with p := r.2, remainingCycles := row.baseCycles } }
    completes (.inc o) .inc (m + 1, setNZ (m + 1) s.cpu.p) ∧
    completes (.dec o) .dec (m - 1, setNZ (m - 1) s.cpu.p) ∧
    completes (.asl o) .asl (aslResult m s.cpu.p) ∧ completes (.lsr o) .lsr (lsrResult m s.cpu.p) ∧
    completes (.rol o) .rol (rolResult m s.cpu.p) ∧ completes (.ror o) .ror (rorResult m s.cpu.p)) ∧
  ∀ s : State,
    let result (r : Byte × Byte) : Result :=
      .next { s with cpu := { s.cpu with a := r.1, p := r.2, remainingCycles := 2 } }
    exec (.asl .accumulator) s = result (aslResult s.cpu.a s.cpu.p) ∧
    exec (.lsr .accumulator) s = result (lsrResult s.cpu.a s.cpu.p) ∧
    exec (.rol .accumulator) s = result (rolResult s.cpu.a s.cpu.p) ∧
    exec (.ror .accumulator) s = result (rorResult s.cpu.a s.cpu.p)

/-- R212 to R220: the eight branches complete; a taken one adds the signed offset to the address of the next
instruction modulo 2^16 and costs 3 cycles, 4 when the target is on another page than the next instruction;
one not taken costs 2 and leaves `PC`; no flag changes. Spec decisions: D18 (notes/assumptions 17). -/
def Obligations.BranchesComplete : Prop :=
  ∀ (off : Byte) (s : State),
    let target : Word := BitVec.ofInt 16 (s.cpu.pc.toNat + off.toInt)
    let branch (cond : Bool) : Result :=
      if cond then .next { s with cpu := { s.cpu with
        pc := target
        remainingCycles := if target.toNat / 256 = s.cpu.pc.toNat / 256 then 3 else 4 } }
      else .next { s with cpu := { s.cpu with remainingCycles := 2 } }
    exec (.bcc off) s = branch (!flagC s.cpu.p) ∧ exec (.bcs off) s = branch (flagC s.cpu.p) ∧
    exec (.bne off) s = branch (!flagZ s.cpu.p) ∧ exec (.beq off) s = branch (flagZ s.cpu.p) ∧
    exec (.bpl off) s = branch (!flagN s.cpu.p) ∧ exec (.bmi off) s = branch (flagN s.cpu.p) ∧
    exec (.bvc off) s = branch (!flagV s.cpu.p) ∧ exec (.bvs off) s = branch (flagV s.cpu.p)

/-- R221, R151: JMP completes; the Indirect form takes the target's high byte from the same page as its low
byte, and where one of those two reads halts it ends there, in a next state, the model's choice
(notes/assumptions 1). Spec decisions: D3, D11 (notes/assumptions 17). -/
def Obligations.JumpsComplete : Prop :=
  (∀ (a : Word) (s : State),
    exec (.jmp (.absolute a)) s = .next { s with cpu := { s.cpu with pc := a, remainingCycles := 3 } }) ∧
  ∀ (p : Word) (s : State),
    let next : Word := BitVec.ofNat 16 (p.toNat / 256 * 256 + (p.toNat + 1) % 256)
    (∀ lo s1 hi s2, memRead p s = .ok lo s1 → memRead next s1 = .ok hi s2 →
      exec (.jmp (.indirect p)) s = .next { s2 with cpu := { s.cpu with
        pc := BitVec.ofNat 16 (hi.toNat * 256 + lo.toNat), remainingCycles := 5 } }) ∧
    (∀ t, memRead p s = .halt t → exec (.jmp (.indirect p)) s = .next t) ∧
    ∀ lo s1 t, memRead p s = .ok lo s1 → memRead next s1 = .halt t →
      exec (.jmp (.indirect p)) s = .next t

/-- R222, R223: JSR completes, pushing the address of its own last byte, high byte first; RTS completes,
going to the word it pulls, low byte first, plus one. The stack is RAM, so neither can halt. Spec decisions:
D3, D14 (notes/assumptions 17). -/
def Obligations.SubroutineCallAndReturn : Prop :=
  ∀ s : State,
    (∀ target : Word,
      let ret := s.cpu.pc - 1
      exec (.jsr target) s = .next { s with
        bus := { s.bus with
          ram := writeCell (writeCell s.bus.ram (256 + s.cpu.sp.toNat) (hiByte ret))
            (256 + (s.cpu.sp - 1).toNat) (loByte ret)
          openBus := loByte ret }
        cpu := { s.cpu with sp := s.cpu.sp - 2, pc := target, remainingCycles := 6 } }) ∧
    (let lo := readCell s.bus.ram (256 + (s.cpu.sp + 1).toNat)
     let hi := readCell s.bus.ram (256 + (s.cpu.sp + 2).toNat)
     exec .rts s = .next { s with
      bus := { s.bus with openBus := hi }
      cpu := { s.cpu with
        sp := s.cpu.sp + 2, pc := BitVec.ofNat 16 (hi.toNat * 256 + lo.toNat + 1),
        remainingCycles := 6 } })

/-- R178 to R181: PHA and PHP push `A` and `P | 0x30` at `0x0100 + SP`; PLA and PLP pull from above, PLA
setting N and Z, PLP forcing bit 4 to 0 and bit 5 to 1. Spec decisions: D3, D12 (notes/assumptions 17). -/
def Obligations.StackInstructionsComplete : Prop :=
  ∀ s : State,
    let pushes (v : Byte) : Result := .next { s with
      bus := { s.bus with ram := writeCell s.bus.ram (256 + s.cpu.sp.toNat) v, openBus := v }
      cpu := { s.cpu with sp := s.cpu.sp - 1, remainingCycles := 3 } }
    let b := readCell s.bus.ram (256 + (s.cpu.sp + 1).toNat)
    let pulls (c : Cpu) : Result := .next { s with
      bus := { s.bus with openBus := b }
      cpu := { c with sp := s.cpu.sp + 1, remainingCycles := 4 } }
    exec .pha s = pushes s.cpu.a ∧ exec .php s = pushes (s.cpu.p ||| 0x30) ∧
    exec .pla s = pulls { s.cpu with a := b, p := setNZ b s.cpu.p } ∧
    exec .plp s = pulls { s.cpu with p := (b &&& 0xCF) ||| 0x20 }

/-- R228 to R235 (CLI R230, NOP R235): the flag instructions write exactly one flag and NOP nothing, each in
two cycles. Spec decisions: D1, D3 (notes/assumptions 17). -/
def Obligations.FlagInstructionsComplete : Prop :=
  ∀ s : State,
    let result (q : Byte) : Result := .next { s with cpu := { s.cpu with p := q, remainingCycles := 2 } }
    exec .clc s = result (s.cpu.p &&& 0xFE) ∧ exec .sec s = result (s.cpu.p ||| 0x01) ∧
    exec .cli s = result (s.cpu.p &&& 0xFB) ∧ exec .sei s = result (s.cpu.p ||| 0x04) ∧
    exec .clv s = result (s.cpu.p &&& 0xBF) ∧ exec .cld s = result (s.cpu.p &&& 0xF7) ∧
    exec .sed s = result (s.cpu.p ||| 0x08) ∧ exec .nop s = result s.cpu.p

/-- R236: BRK completes: it pushes the opcode address plus 2, high byte first, then `P | 0x30`, sets I,
leaves D, goes where the IRQ vector points, and takes 7 cycles. `PC` is already past the opcode. Spec
decisions: D5, D12, D13 (notes/assumptions 17). -/
def Obligations.BreakTakesTheException : Prop :=
  ∀ s : State,
    let ret := s.cpu.pc + 1
    exec .brk s = .next { s with
      bus := { s.bus with
        ram := writeCell (writeCell (writeCell s.bus.ram (256 + s.cpu.sp.toNat) (hiByte ret))
          (256 + (s.cpu.sp - 1).toNat) (loByte ret)) (256 + (s.cpu.sp - 2).toNat) (s.cpu.p ||| 0x30)
        openBus := peek 0xFFFF s }
      cpu := { s.cpu with
        sp := s.cpu.sp - 3, p := s.cpu.p ||| 0x04, pc := vectorAt 0xFFFE s, remainingCycles := 7 } }

/-- R237, R254: RTI completes: it pulls `P` with bits 4 and 5 normalised, then the return address, low byte
first, and goes exactly there in 6 cycles. Spec decisions: D3, D12 (notes/assumptions 17). -/
def Obligations.ReturnFromInterruptCompletes : Prop :=
  ∀ s : State,
    let p := readCell s.bus.ram (256 + (s.cpu.sp + 1).toNat)
    let lo := readCell s.bus.ram (256 + (s.cpu.sp + 2).toNat)
    let hi := readCell s.bus.ram (256 + (s.cpu.sp + 3).toNat)
    exec .rti s = .next { s with
      bus := { s.bus with openBus := hi }
      cpu := { s.cpu with
        sp := s.cpu.sp + 3, p := (p &&& 0xCF) ||| 0x20,
        pc := BitVec.ofNat 16 (hi.toNat * 256 + lo.toNat), remainingCycles := 6 } }

/-- 41_load_store_transfer.md, template; R246: an instruction whose operand read or operand write halts has
no further effect: it leaves the state of the halted access, with every CPU register as before, but for a
memory shift whose write-back halts, which has its new flags. That this is a next state, and that N and Z
precede a shift's write-back, is the model's choice (notes/assumptions 1, 19). Spec decisions: D11
(notes/assumptions 17). -/
def Obligations.HaltingAccessEndsTheInstruction : Prop :=
  (∀ (i : Instr) (mn : Mnemonic) (o : Operand) (row : Row) (s t : State),
    i.shape = some (mn, o) → rowFor mn o.mode = some row →
    mn ∈ [.lda, .ldx, .ldy, .adc, .sbc, .cmp, .cpx, .cpy, .and, .ora, .eor, .bit] →
    operandByte row.pagePenalty o s = .halt t →
    exec i s = .next t ∧ t.cpu = s.cpu ∧ t.halted.isSome = true) ∧
  (∀ (o : Operand) (row : Row) (s s1 t : State) (a : Word) (e : Nat),
    address row.pagePenalty o s = .ok (.memory a, e) s1 →
    (rowFor .sta o.mode = some row → memWrite a s.cpu.a s1 = .halt t →
      exec (.sta o) s = .next t ∧ t.cpu = s.cpu ∧ t.halted.isSome = true) ∧
    (rowFor .stx o.mode = some row → memWrite a s.cpu.x s1 = .halt t →
      exec (.stx o) s = .next t ∧ t.cpu = s.cpu ∧ t.halted.isSome = true) ∧
    (rowFor .sty o.mode = some row → memWrite a s.cpu.y s1 = .halt t →
      exec (.sty o) s = .next t ∧ t.cpu = s.cpu ∧ t.halted.isSome = true)) ∧
  (∀ (i : Instr) (mn : Mnemonic) (o : Operand) (row : Row) (s s1 t : State) (a : Word) (e : Nat),
    i.shape = some (mn, o) → rowFor mn o.mode = some row →
    mn ∈ [.inc, .dec, .asl, .lsr, .rol, .ror] →
    address row.pagePenalty o s = .ok (.memory a, e) s1 → memRead a s1 = .halt t →
    exec i s = .next t ∧ t.cpu = s.cpu ∧ t.halted.isSome = true) ∧
  ∀ (o : Operand) (row : Row) (s s1 s2 t : State) (a : Word) (e : Nat) (m : Byte),
    address row.pagePenalty o s = .ok (.memory a, e) s1 → memRead a s1 = .ok m s2 →
    let ends (i : Instr) (mn : Mnemonic) (r q : Byte) : Prop :=
      rowFor mn o.mode = some row → memWrite a r s2 = .halt t →
        exec i s = .next { t with cpu := { s.cpu with p := q } } ∧ t.cpu = s.cpu ∧
          t.halted.isSome = true
    let shifts (i : Instr) (mn : Mnemonic) (r : Byte × Byte) : Prop := ends i mn r.1 r.2
    ends (.inc o) .inc (m + 1) s.cpu.p ∧ ends (.dec o) .dec (m - 1) s.cpu.p ∧
    shifts (.asl o) .asl (aslResult m s.cpu.p) ∧ shifts (.lsr o) .lsr (lsrResult m s.cpu.p) ∧
    shifts (.rol o) .rol (rolResult m s.cpu.p) ∧ shifts (.ror o) .ror (rorResult m s.cpu.p)

/-- R50, rows `A`, `X`, `Y` and `SP`: no instruction but the listed ones writes the register. -/
def Obligations.RegistersHaveOnlyTheirWriters : Prop :=
  ∀ (i : Instr) (s t : State), exec i s = .next t →
    (writesA i = false → t.cpu.a = s.cpu.a) ∧ (writesX i = false → t.cpu.x = s.cpu.x) ∧
    (writesY i = false → t.cpu.y = s.cpu.y) ∧ (writesSp i = false → t.cpu.sp = s.cpu.sp)

/-- R24, column "set by": an instruction leaves every bit of `P` it is not listed for. Spec decisions: D1
(notes/assumptions 17). -/
def Obligations.FlagsHaveOnlyTheirWriters : Prop :=
  ∀ (i : Instr) (s t : State), exec i s = .next t →
    t.cpu.p &&& ~~~(flagsWritten i) = s.cpu.p &&& ~~~(flagsWritten i)

/-- Frame of every form that makes no bus write, and of PHA, PHP, JSR and BRK: every byte the CPU or the PPU
can address but the stack slots pushed to, OAM and the whole cartridge are as before. Spec decisions: D16
(notes/assumptions 17). -/
def Obligations.OnlyPushedSlotsChange : Prop :=
  ∀ (i : Instr) (s t : State), storesMemory i = false ∨ 0 < pushedBytes i → exec i s = .next t →
    (∀ b : Word,
      (∀ k : Nat, k < pushedBytes i → sameByte (stackAddr (s.cpu.sp - BitVec.ofNat 8 k)) b = false) →
      peek b t = peek b s) ∧
    (∀ x : PpuAddr, ppuRead t x = ppuRead s x) ∧
    (∀ k : Nat, readCell t.ppu.oam k = readCell s.ppu.oam k) ∧ t.cart = s.cart

/-- Frame of the forms that store to their operand's address `a`: RAM and PRG-RAM change at `a` only; the
PPU bus changes only through a store to PPUDATA, and only at the byte `v` addresses at that moment; OAM
changes only through a store to OAMDATA, at `oam_addr`; a store to `$8000` or above changes no byte of any
memory; PRG-ROM never changes. Spec decisions: D16, D22 (notes/assumptions 17). -/
def Obligations.StoresChangeOnlyTheirByte : Prop :=
  ∀ (i : Instr) (mn : Mnemonic) (o : Operand) (row : Row) (s s1 t : State) (a : Word) (e : Nat),
    i.shape = some (mn, o) → rowFor mn o.mode = some row →
    mn ∈ [.sta, .stx, .sty, .inc, .dec, .asl, .lsr, .rol, .ror] →
    address row.pagePenalty o s = .ok (.memory a, e) s1 → exec i s = .next t →
    let before : State := if mn ∈ [.sta, .stx, .sty] then s1 else (memRead a s1).state
    let isPort (k : BitVec 3) : Prop := 0x2000 ≤ a.toNat ∧ a.toNat < 0x4000 ∧ portOf a = k
    (∀ b : Word, a.toNat < 0x8000 ∨ b.toNat < 0x8000 → sameByte a b = false → peek b t = peek b s) ∧
    (a.toNat < 0x8000 → ∀ x : PpuAddr,
      isPort 7 ∧ samePpuByte s.cart (busAddr before.ppu.v) x = true ∨ ppuRead t x = ppuRead s x) ∧
    (∀ k : Nat, isPort 4 ∧ k = s.ppu.oamAddr.toNat ∨ readCell t.ppu.oam k = readCell s.ppu.oam k) ∧
    (0x8000 ≤ a.toNat → t.bus.ram = s.bus.ram ∧ t.cart.prgRam = s.cart.prgRam ∧
      t.cart.chr = s.cart.chr ∧ t.cart.ntRam = s.cart.ntRam ∧ t.ppu.palette = s.ppu.palette) ∧
    t.cart.prgRom = s.cart.prgRom

/-- R28, R31, R38, R39, R40, R41, R340: no instruction writes the tick counter, the request latches, the
host's inputs, the render position, secondary OAM, the sprite flags, the pixel buffer, the constants of the
cartridge or `MAPPER_ID`; none clears `halted`. R45, R309, R375: and no dot writes the CPU, the CPU bus, the
host's inputs, OAM, the palette, `ctrl`, `mask`, `oam_addr`, `t`, `x`, `w` or the read buffer, nor any pixel
but its own; of the cartridge it writes only mapper 004's counter and reload flag, at dot 260 of a Render or
PreRender line while rendering. Spec decisions: D11, D30, D39 (notes/assumptions 17). -/
def Obligations.InstructionsKeepTheRestOfTheMachine : Prop :=
  (∀ (i : Instr) (s t : State), exec i s = .next t →
    (t.cpu.tickCounter = s.cpu.tickCounter ∧ t.cpu.nmiPending = s.cpu.nmiPending ∧
      t.cpu.irqPending = s.cpu.irqPending) ∧
    (t.buttons1 = s.buttons1 ∧ t.buttons2 = s.buttons2 ∧ t.systemPalette = s.systemPalette) ∧
    (t.ppu.renderState = s.ppu.renderState ∧ t.ppu.scanline = s.ppu.scanline ∧
      t.ppu.cycle = s.ppu.cycle ∧ t.ppu.oddFrame = s.ppu.oddFrame) ∧
    (t.ppu.secCount = s.ppu.secCount ∧ t.ppu.secIndex = s.ppu.secIndex ∧
      t.ppu.sprite0Hit = s.ppu.sprite0Hit ∧ t.ppu.spriteOverflow = s.ppu.spriteOverflow ∧
      t.ppu.pixels = s.ppu.pixels) ∧
    (t.cart.format = s.cart.format ∧ t.cart.tvSystem = s.cart.tvSystem ∧
      t.cart.prgUnits = s.cart.prgUnits ∧ t.cart.chrUnits = s.cart.chrUnits ∧
      t.cart.prgRamUnits = s.cart.prgRamUnits ∧ t.cart.prgRom = s.cart.prgRom ∧
      t.cart.mapper.id = s.cart.mapper.id) ∧
    (t.halted = s.halted ∨ t.halted.isSome = true)) ∧
  ∀ s : State,
    let t := (clock s).2
    let p := t.ppu
    let hook : Prop := s.halted = none ∧ (s.ppu.renderState = .render ∨ s.ppu.renderState = .preRender) ∧
      s.ppu.cycle = 260 ∧ (s.ppu.mask.getLsbD 3 = true ∨ s.ppu.mask.getLsbD 4 = true)
    let draws : Prop := s.halted = none ∧ s.ppu.renderState = .render ∧ 1 ≤ s.ppu.cycle ∧
      s.ppu.cycle ≤ 256
    (t.cpu = s.cpu ∧ t.bus = s.bus ∧ t.halted = s.halted ∧ t.buttons1 = s.buttons1 ∧
      t.buttons2 = s.buttons2 ∧ t.systemPalette = s.systemPalette) ∧
    (p.oam = s.ppu.oam ∧ p.oamAddr = s.ppu.oamAddr ∧ p.palette = s.ppu.palette ∧
      p.ctrl = s.ppu.ctrl ∧ p.mask = s.ppu.mask ∧ p.t = s.ppu.t ∧ p.x = s.ppu.x ∧ p.w = s.ppu.w ∧
      p.readBuffer = s.ppu.readBuffer) ∧
    ((∃ r, s.cart.mapper = .m004 r ∧ hook ∧ t.cart = { s.cart with mapper := .m004 { r with
        irqCounter := if r.irqCounter = 0 ∨ r.irqReload = true then r.irqLatch else r.irqCounter - 1
        irqReload := false } }) ∨
      ¬ ((∃ r, s.cart.mapper = .m004 r) ∧ hook) ∧ t.cart = s.cart) ∧
    (¬ draws → p.pixels = s.ppu.pixels) ∧
    ∀ k : Nat, k ≠ s.ppu.scanline * 256 + (s.ppu.cycle - 1) → readCell p.pixels k = readCell s.ppu.pixels k

/-- R222 to R224, R236, R237, R252, R254: with canonical RAM and the invariant of `P`, RTI after an NMI or
IRQ entry restores `PC`, `P` and `SP`, RTI after BRK restores `P` and `SP` and skips the padding byte, and
RTS after JSR goes to the instruction after the JSR. Spec decisions: D12, D13, D14 (notes/assumptions 17).
-/
def Obligations.ReturnsUndoEntries : Prop :=
  ∀ s t u : State, storeWf s.bus.ram = true → StatusInv s →
    (∀ vector : Word, 0x8000 ≤ vector.toNat → vector.toNat < 0xFFFF →
      interruptEntry vector s = .ok () t → exec .rti t = .next u →
      u.cpu.pc = s.cpu.pc ∧ u.cpu.p = s.cpu.p ∧ u.cpu.sp = s.cpu.sp) ∧
    (exec .brk s = .next t → exec .rti t = .next u →
      u.cpu.pc = s.cpu.pc + 1 ∧ u.cpu.p = s.cpu.p ∧ u.cpu.sp = s.cpu.sp) ∧
    (∀ target : Word, exec (.jsr target) s = .next t → exec .rts t = .next u →
      u.cpu.pc = s.cpu.pc ∧ u.cpu.sp = s.cpu.sp)

/-- R241, R251, R252, R264: what a tick at an instruction boundary does with the request latches. NMI is
taken first and leaves the IRQ latch; IRQ is taken where `P.I` is clear; where `P.I` is set the request is
dropped and the tick is that of a machine without it. An entry pushes `PC`, high byte first, and `(P & 0xEF)
| 0x20`, sets I, leaves D, and takes 7 cycles, one of them in this tick. Spec decisions: D5, D6, D7, D8, D12
(notes/assumptions 17). -/
def Obligations.InterruptsAtABoundary : Prop :=
  ∀ s : State, s.halted = none → s.cpu.remainingCycles = 0 →
    let entry (vector : Word) (c : Cpu) : Result := .next { s with
      bus := { s.bus with
        ram := writeCell (writeCell (writeCell s.bus.ram (256 + s.cpu.sp.toNat) (hiByte s.cpu.pc))
          (256 + (s.cpu.sp - 1).toNat) (loByte s.cpu.pc)) (256 + (s.cpu.sp - 2).toNat)
          ((s.cpu.p &&& 0xEF) ||| 0x20)
        openBus := peek (vector + 1) s }
      cpu := { c with
        sp := s.cpu.sp - 3, p := s.cpu.p ||| 0x04, pc := vectorAt vector s, remainingCycles := 6,
        tickCounter := s.cpu.tickCounter + 1 } }
    (s.cpu.nmiPending = true → tick s = entry 0xFFFA { s.cpu with nmiPending := false }) ∧
    (s.cpu.nmiPending = false → s.cpu.irqPending = true → flagI s.cpu.p = false →
      tick s = entry 0xFFFE { s.cpu with irqPending := false }) ∧
    (s.cpu.nmiPending = false → s.cpu.irqPending = true → flagI s.cpu.p = true →
      tick s = tick { s with cpu := { s.cpu with irqPending := false } })

/-- R27, R28, R29, R240, R243: between two boundaries a tick changes only the two counters. A system step of
an unhalted machine is always three dots, one tick, and OAM DMA where that tick leaves a request; so where
the dots leave cycles to burn, it is three dots, the two counters and that DMA. A step that ends unhalted
has counted exactly one tick. Spec decisions: D10, D22, D26 (notes/assumptions 17). -/
def Obligations.TicksAreCounted : Prop :=
  (∀ (s : State) (n : Nat), s.halted = none → s.cpu.remainingCycles = n + 1 →
    tick s = .next { s with cpu := { s.cpu with
      remainingCycles := n, tickCounter := s.cpu.tickCounter + 1 } }) ∧
  (∀ s : State, s.halted = none → (dot (dot (dot s))).halted = none ∧
    ∃ t, tick (dot (dot (dot s))) = .next t ∧
      step s = .next (if t.bus.dmaRequest = true then oamDma t else t)) ∧
  (∀ (s : State) (n : Nat), s.halted = none → (dot (dot (dot s))).cpu.remainingCycles = n + 1 →
    let d := dot (dot (dot s))
    let t : State := { d with cpu := { d.cpu with
      remainingCycles := n, tickCounter := d.cpu.tickCounter + 1 } }
    step s = .next (if d.bus.dmaRequest = true then oamDma t else t)) ∧
  ∀ s t : State, step s = .next t → t.halted = none →
    t.cpu.tickCounter = s.cpu.tickCounter + 1

/-- R32, R246: a halted machine stays as it is under the system step, the tick, the dot, OAM DMA and
`Reset()`. Spec decisions: D11 (notes/assumptions 17). -/
def Obligations.HaltedMachineStays : Prop :=
  ∀ s : State, s.halted.isSome = true →
    step s = .next s ∧ tick s = .next s ∧ (clock s).2 = s ∧ oamDma s = s ∧ hostReset s = s

/-- R67, R240, R241, R243, R246: where the tick of a system step is a boundary that takes no interrupt, the
bytes read from `PC` up decode to an instruction, and that instruction runs to its next state, the step is
three dots, those reads with `PC` moved past them, that instruction, the tick's count, and any OAM DMA;
where the bytes read so far still lack one and its read halts, the step ends there, uncounted, with `PC` at
that byte, past it for the byte of an Immediate operand. That the halt is a next state, and that `PC` is
already past the byte of an Immediate operand, is the model's reading (notes/assumptions 1, 9). Spec
decisions: D6, D11, D16, D22 (notes/assumptions 17). -/
def Obligations.StepRunsTheDecodedInstruction : Prop :=
  ∀ (s u t : State) (bytes : List Byte),
    s.halted = none → (threeDots s).cpu.remainingCycles = 0 → (threeDots s).cpu.nmiPending = false →
    ((threeDots s).cpu.irqPending = false ∨ flagI (threeDots s).cpu.p = true) →
    readBytes bytes.length (threeDots s).cpu.pc
      { threeDots s with cpu := { (threeDots s).cpu with irqPending := false } } = .ok bytes u →
    let length : Word := BitVec.ofNat 16 bytes.length
    (∀ i : Instr, decode bytes = .ok (i, []) → exec i (u.setPc (u.cpu.pc + length)) = .next t →
      step s = .next (serveDma (countTick t))) ∧
    ∀ e : DecodeError, decode bytes = .error e → memRead (u.cpu.pc + length) u = .halt t →
      let past : Word := if (bytes.head?.bind rowAt).map Row.mode = some .immediate then 1 else 0
      step s = .next (t.setPc (u.cpu.pc + length + past))

/-- R62: RAM is mirrored every 0x800 bytes below `$2000`: in every state a read returns the byte and changes
only the latch; a write stores its byte, changes nothing else but the latch, is read back through every
mirror and leaves every other RAM byte. -/
def Obligations.RamIsMirrored : Prop :=
  (∀ (a : Word) (s : State), a.toNat < 0x2000 →
    let b := readCell s.bus.ram (a.toNat % 0x800)
    memRead a s = .ok b { s with bus := { s.bus with openBus := b } }) ∧
  ∀ (s : State) (a b : Word) (v : Byte), storeWf s.bus.ram = true → a.toNat < 0x2000 → b.toNat < 0x2000 →
    ∃ ram : Memory,
      let t : State := { s with bus := { s.bus with ram := ram, openBus := v } }
      memWrite a v s = .ok () t ∧
      (a.toNat % 0x800 = b.toNat % 0x800 → memRead b t = .ok v t) ∧
      (a.toNat % 0x800 ≠ b.toNat % 0x800 → peek b t = peek b s)

/-- R61, R64, R69, R70: every completed read and every write leaves its value in the latch, a write that
halts too (D16); a read that halts leaves the latch (D16); a read of a write-only PPU port returns the latch
and changes nothing, and so does a read of `$4000` to `$4015`; a write of `$4000` to `$4013`, `$4015` or
`$4017` only sets the latch; and `$2005` read at once after a write of `$2000` returns the value written.
Spec decisions: D16, D19, D49 (notes/assumptions 17). -/
def Obligations.OpenBusLatch : Prop :=
  (∀ (a : Word) (s t : State) (v : Byte), memRead a s = .ok v t → t.bus.openBus = v) ∧
  (∀ (a : Word) (s t : State), memRead a s = .halt t → t.bus.openBus = s.bus.openBus) ∧
  (∀ (a : Word) (s : State) (v : Byte), (memWrite a v s).state.bus.openBus = v) ∧
  (∀ (a : Word) (s : State), 0x2000 ≤ a.toNat → a.toNat < 0x4000 → a.toNat % 8 ∈ [0, 1, 3, 5, 6] →
    memRead a s = .ok s.bus.openBus s) ∧
  (∀ (a : Word) (s : State), 0x4000 ≤ a.toNat → a.toNat ≤ 0x4015 → memRead a s = .ok s.bus.openBus s) ∧
  (∀ (a : Word) (s : State) (v : Byte), 0x4000 ≤ a.toNat → a.toNat ≤ 0x4017 → a ≠ 0x4014 → a ≠ 0x4016 →
    memWrite a v s = .ok () { s with bus := { s.bus with openBus := v } }) ∧
  ∀ (s : State) (v : Byte), ∃ t, memWrite 0x2000 v s = .ok () t ∧ memRead 0x2005 t = .ok v t

/-- R67, R345: an access to `$4018` to `$401F`, and an access to `$6000` to `$7FFF` on a mapper without
PRG-RAM, halts with its reason; a PPU write to CHR-ROM halts; no other read halts. A halting write has
already changed the latch (D16). A halt on the PPU bus records the 14-bit address in 16 bits, the model's
choice (notes/assumptions 10). Spec decisions: D11, D16, D36 (notes/assumptions 17). -/
def Obligations.ForbiddenAccessesHalt : Prop :=
  (∀ (a : Word) (s : State), 0x4018 ≤ a.toNat → a.toNat ≤ 0x401F → ∀ v : Byte,
    memRead a s = .halt { s with halted := some (.testModeAccess a .read) } ∧
    memWrite a v s = .halt { s.setOpenBus v with halted := some (.testModeAccess a .write) }) ∧
  (∀ (a : Word) (s : State), 0x6000 ≤ a.toNat → a.toNat < 0x8000 →
    s.cart.mapper.id ∈ [.m002, .m003, .m007, .m011, .m066] → ∀ v : Byte,
    memRead a s = .halt { s with halted := some (.unsupportedCartridgeAccess a .cpu .read) } ∧
    memWrite a v s =
      .halt { s.setOpenBus v with halted := some (.unsupportedCartridgeAccess a .cpu .write) }) ∧
  (∀ (a : PpuAddr) (s : State) (v : Byte), a.toNat < 0x2000 → 0 < s.cart.chrUnits →
    ppuWrite a v s =
      .halt { s with halted := some (.unsupportedCartridgeAccess (a.setWidth 16) .ppu .write) }) ∧
  ∀ (a : Word) (s : State), (a.toNat < 0x4018 ∨ 0x401F < a.toNat) →
    (a.toNat < 0x6000 ∨ 0x8000 ≤ a.toNat ∨ s.cart.mapper.id ∈ [.m000, .m001, .m004]) →
    ∃ v t, memRead a s = .ok v t

/-- R71, R79 to R83, R343, R344: a read of any address but a mirror of `$2002` or `$2007` and the controller
ports changes only the latch, and a second read returns the same value and changes nothing. A read of
`$4020` to `$5FFF` is 0x00 and a write there only sets the latch; PRG-RAM at `$6000` to `$7FFF` reads its
byte, and a write is read back and leaves every other byte; `$8000` and above reads PRG-ROM through
`prg_off`, and a write there completes with the mapper's register rule and the latch alone. On the PPU bus:
a read is the CHR byte at its window's offset, the nametable byte at its quadrant's offset, or the palette
byte; a write outside CHR-ROM stores its byte, so that every address of that byte reads it and every other
byte is as before, and changes nothing else. Spec decisions: D19, D33, D34, D36 (notes/assumptions 17). -/
def Obligations.OtherReadsAreIdempotent : Prop :=
  (∀ (a : Word) (s t : State) (v : Byte), memRead a s = .ok v t →
    ¬ (0x2000 ≤ a.toNat ∧ a.toNat < 0x4000 ∧ a.toNat % 8 ∈ [2, 7]) → a ≠ 0x4016 → a ≠ 0x4017 →
    t = s.setOpenBus v ∧ memRead a t = .ok v t) ∧
  (∀ (a : Word) (s : State),
    let gives (b : Byte) : Prop := memRead a s = .ok b { s with bus := { s.bus with openBus := b } }
    (0x4020 ≤ a.toNat → a.toNat < 0x6000 → gives 0x00 ∧
      ∀ v : Byte, memWrite a v s = .ok () { s with bus := { s.bus with openBus := v } }) ∧
    (0x6000 ≤ a.toNat → a.toNat < 0x8000 → s.cart.mapper.id ∈ [.m000, .m001, .m004] →
      gives (readCell s.cart.prgRam (a.toNat - 0x6000)) ∧
      ∀ v : Byte, ∃ ram : Memory,
        let t : State := { s with
          bus := { s.bus with openBus := v }
          cart := { s.cart with prgRam := ram } }
        memWrite a v s = .ok () t ∧
        (storeWf s.cart.prgRam = true → memRead a t = .ok v t ∧
          ∀ k : Nat, k ≠ a.toNat - 0x6000 → readCell ram k = readCell s.cart.prgRam k)) ∧
    (∀ k : Fin 4, a.toNat / 0x2000 = 4 + k.val →
      gives (readCell s.cart.prgRom (s.cart.prgOff[k] + a.toNat % 0x2000))) ∧
    (0x8000 ≤ a.toNat → ∀ v : Byte, memWrite a v s = .ok () { s with
      bus := { s.bus with openBus := v }
      cart := mapperWrite a v s.cart })) ∧
  ∀ (a : PpuAddr) (s : State),
    (∀ k : Fin 8, a.toNat / 0x400 = k.val →
      ppuRead s a = readCell s.cart.chr (s.cart.chrOff[k] + a.toNat % 0x400)) ∧
    (∀ q : Fin 4, 0x2000 ≤ a.toNat → a.toNat < 0x3F00 → a.toNat / 0x400 % 4 = q.val →
      ppuRead s a = readCell s.cart.ntRam (s.cart.ntOffset[q] + a.toNat % 0x400)) ∧
    (0x3F00 ≤ a.toNat → ppuRead s a = readCell s.ppu.palette
      (if a.toNat % 32 ∈ [0x10, 0x14, 0x18, 0x1C] then a.toNat % 32 - 0x10 else a.toNat % 32)) ∧
    ∀ v : Byte, 0x2000 ≤ a.toNat ∨ s.cart.chrUnits = 0 → ∃ chr ntRam palette : Memory,
      let t : State := { s with
        cart := { s.cart with chr := chr, ntRam := ntRam }
        ppu := { s.ppu with palette := palette } }
      ppuWrite a v s = .ok () t ∧
      (storeWf s.cart.chr = true → storeWf s.cart.ntRam = true → storeWf s.ppu.palette = true →
        ∀ b : PpuAddr, ppuRead t b = if samePpuByte s.cart a b then v else ppuRead s b)

/-- R66: after a strobe, reads number 0 to 7 of a controller port return the buttons from bit 0 up, every
later read returns 1, and bits 7 to 5 come from the latch. A write of `$4016` changes only the strobe, the
two shift registers, which load the buttons where the strobe was or is set, and the latch; a read of a port
changes only its own shift register and the latch, and while the strobe is set reads the first button. Spec
decisions: D20 (notes/assumptions 17). -/
def Obligations.ControllerShiftsOutItsButtons : Prop :=
  (∀ (s s1 s2 : State) (on off : Byte) (k : Nat), on.getLsbD 0 = true → off.getLsbD 0 = false →
    memWrite 0x4016 on s = .ok () s1 → memWrite 0x4016 off s1 = .ok () s2 →
    (∃ v t, memRead 0x4016 (readTimes k 0x4016 s2) = .ok v t ∧
      v.getLsbD 0 = (if k < 8 then s.buttons1.getLsbD k else true) ∧
      v &&& 0xFE = (readTimes k 0x4016 s2).bus.openBus &&& 0xE0) ∧
    ∃ v t, memRead 0x4017 (readTimes k 0x4017 s2) = .ok v t ∧
      v.getLsbD 0 = (if k < 8 then s.buttons2.getLsbD k else true) ∧
      v &&& 0xFE = (readTimes k 0x4017 s2).bus.openBus &&& 0xE0) ∧
  ∀ s : State,
    (∀ v : Byte,
      let load := s.bus.strobe || v.getLsbD 0
      memWrite 0x4016 v s = .ok () { s with bus := { s.bus with
        openBus := v, strobe := v.getLsbD 0
        shift1 := if load then s.buttons1 else s.bus.shift1
        shift2 := if load then s.buttons2 else s.bus.shift2 } }) ∧
    let now (buttons shift : Byte) : Byte := if s.bus.strobe then buttons else shift
    let next (buttons shift : Byte) : Byte :=
      if s.bus.strobe then buttons else BitVec.ofNat 8 (128 + shift.toNat / 2)
    (∃ v : Byte, memRead 0x4016 s = .ok v { s with bus := { s.bus with
        openBus := v, shift1 := next s.buttons1 s.bus.shift1 } } ∧
      v.getLsbD 0 = (now s.buttons1 s.bus.shift1).getLsbD 0 ∧ v &&& 0xFE = s.bus.openBus &&& 0xE0) ∧
    ∃ v : Byte, memRead 0x4017 s = .ok v { s with bus := { s.bus with
        openBus := v, shift2 := next s.buttons2 s.bus.shift2 } } ∧
      v.getLsbD 0 = (now s.buttons2 s.bus.shift2).getLsbD 0 ∧ v &&& 0xFE = s.bus.openBus &&& 0xE0

/-- R65, R91: a write to `$4014` only sets the request and the page, besides the latch. From a page of plain
storage, OAM DMA copies the 256 bytes to OAM from `oam_addr` up, wrapping, leaves `oam_addr`, adds 513
cycles and one more on an odd tick count, clears the request, and leaves the last byte in the latch; nothing
else changes. Spec decisions: D22 (notes/assumptions 17). -/
def Obligations.OamDmaCopiesThePage : Prop :=
  (∀ (s : State) (v : Byte), memWrite 0x4014 v s = .ok () { s with
    bus := { s.bus with openBus := v, dmaRequest := true, dmaPage := v } }) ∧
  ∀ s : State, s.halted = none → storeWf s.ppu.oam = true → backed (wordOf 0x00 s.bus.dmaPage) s = true →
    ∃ oam : Memory,
      oamDma s = { s with
        cpu := { s.cpu with
          remainingCycles := s.cpu.remainingCycles + 513 + s.cpu.tickCounter % 2 }
        bus := { s.bus with openBus := peek (wordOf 0xFF s.bus.dmaPage) s, dmaRequest := false }
        ppu := { s.ppu with oam := oam } } ∧
      ∀ i : Byte, readCell oam (s.ppu.oamAddr + i).toNat = peek (wordOf i s.bus.dmaPage) s

/-- R281 to R285, R288: a read of PPUSTATUS returns the three flags over the latch's low bits and clears
vblank and `w`; a read of PPUDATA returns the buffer, or at once the palette byte, refills the buffer, and
moves `v`; a write of PPUDATA stores at `v` and moves it. A write of PPUCTRL sets `ctrl` and `t[11:10]`, of
PPUMASK `mask`, of OAMADDR `oam_addr`, of PPUSTATUS nothing; OAMDATA reads the byte at `oam_addr`, and a
write stores there and moves it on. Spec decisions: D21, D24, D31 (notes/assumptions 17). -/
def Obligations.StatusAndDataPorts : Prop :=
  ∀ (a : Word) (s : State), 0x2000 ≤ a.toNat → a.toNat < 0x4000 →
    let x := busAddr s.ppu.v
    let moved : Scroll := s.ppu.v + (if s.ppu.ctrl.getLsbD 2 then 32 else 1)
    (a.toNat % 8 = 2 → ∃ v : Byte,
      memRead a s = .ok v { s with
        bus := { s.bus with openBus := v }
        ppu := { s.ppu with vblank := false, w := false } } ∧
      v.getLsbD 7 = s.ppu.vblank ∧ v.getLsbD 6 = s.ppu.sprite0Hit ∧
      v.getLsbD 5 = s.ppu.spriteOverflow ∧ v &&& 0x1F = s.bus.openBus &&& 0x1F) ∧
    (a.toNat % 8 = 7 →
      (x.toNat < 0x3F00 → memRead a s = .ok s.ppu.readBuffer { s with
        bus := { s.bus with openBus := s.ppu.readBuffer }
        ppu := { s.ppu with readBuffer := ppuRead s x, v := moved } }) ∧
      (0x3F00 ≤ x.toNat → memRead a s = .ok (ppuRead s x) { s with
        bus := { s.bus with openBus := ppuRead s x }
        ppu := { s.ppu with readBuffer := ppuRead s (x - 0x1000), v := moved } }) ∧
      ∀ v : Byte, memWrite a v s = (ppuWrite x v (s.setOpenBus v)).bind fun _ t =>
        .ok () { t with ppu := { t.ppu with v := moved } }) ∧
    (∀ v : Byte,
      let writes (p : Ppu) : Prop :=
        memWrite a v s = .ok () { s with bus := { s.bus with openBus := v }, ppu := p }
      (a.toNat % 8 = 0 → ∃ t : Scroll, writes { s.ppu with ctrl := v, t := t } ∧
        t.extractLsb' 10 2 = v.extractLsb' 0 2 ∧ t.extractLsb' 0 10 = s.ppu.t.extractLsb' 0 10 ∧
        t.extractLsb' 12 3 = s.ppu.t.extractLsb' 12 3) ∧
      (a.toNat % 8 = 1 → writes { s.ppu with mask := v }) ∧
      (a.toNat % 8 = 2 → writes s.ppu) ∧
      (a.toNat % 8 = 3 → writes { s.ppu with oamAddr := v }) ∧
      (a.toNat % 8 = 4 → ∃ oam : Memory,
        writes { s.ppu with oam := oam, oamAddr := s.ppu.oamAddr + 1 } ∧
        (storeWf s.ppu.oam = true → ∀ k : Nat,
          readCell oam k = if k = s.ppu.oamAddr.toNat then v else readCell s.ppu.oam k))) ∧
    (a.toNat % 8 = 4 →
      let b := readCell s.ppu.oam s.ppu.oamAddr.toNat
      memRead a s = .ok b { s with bus := { s.bus with openBus := b } })

/-- R82, R83: `$3000 + k` and `$2000 + k` are one byte for `k` below 0xF00; the palette repeats every 32
bytes and its entries 0x10, 0x14, 0x18 and 0x1C are 0x00, 0x04, 0x08 and 0x0C, for reads and writes. What
the bytes hold and that a write is read back is said by OtherReadsAreIdempotent. -/
def Obligations.PpuBusMirrors : Prop :=
  ∀ (s : State) (v : Byte) (a b : PpuAddr),
    (0x2000 ≤ a.toNat → a.toNat < 0x2F00 → b.toNat = a.toNat + 0x1000 →
      ppuRead s b = ppuRead s a ∧ ppuWrite b v s = ppuWrite a v s) ∧
    (0x3F00 ≤ a.toNat → 0x3F00 ≤ b.toNat → a.toNat % 32 = b.toNat % 32 →
      ppuRead s b = ppuRead s a ∧ ppuWrite b v s = ppuWrite a v s) ∧
    (0x3F00 ≤ a.toNat → 0x3F00 ≤ b.toNat → a.toNat % 32 ∈ [0x00, 0x04, 0x08, 0x0C] →
      b.toNat % 32 = a.toNat % 32 + 0x10 →
      ppuRead s b = ppuRead s a ∧ ppuWrite b v s = ppuWrite a v s)

/-- R286, R287, R411: from a cleared toggle, two writes of PPUADDR set `t` and `v` to the 14-bit address,
high byte first; two writes of PPUSCROLL set coarse X, fine X, coarse Y and fine Y, leave the nametable bits
and `v`; either pair leaves the toggle clear. And each single write, with the toggle clear or set, so any
mixed pair too: it flips the shared toggle, writes its own fields of `t`, and `x` or `v` where its rule
says, and changes nothing else but the latch. Spec decisions: D24 (notes/assumptions 17). -/
def Obligations.TwoWritesSetScrollAndAddress : Prop :=
  (∀ (s : State) (a b : Word) (first second : Byte), s.ppu.w = false →
    0x2000 ≤ a.toNat → a.toNat < 0x4000 → 0x2000 ≤ b.toNat → b.toNat < 0x4000 →
    (a.toNat % 8 = 6 → b.toNat % 8 = 6 → ∃ s1 t,
      memWrite a first s = .ok () s1 ∧ memWrite b second s1 = .ok () t ∧
      t.ppu.v.toNat = first.toNat % 64 * 256 + second.toNat ∧ t.ppu.t = t.ppu.v ∧ t.ppu.w = false ∧
      t.ppu.x = s.ppu.x) ∧
    (a.toNat % 8 = 5 → b.toNat % 8 = 5 → ∃ s1 t,
      memWrite a first s = .ok () s1 ∧ memWrite b second s1 = .ok () t ∧
      (t.ppu.t.extractLsb' 0 5).toNat = first.toNat / 8 ∧ t.ppu.x.toNat = first.toNat % 8 ∧
      (t.ppu.t.extractLsb' 5 5).toNat = second.toNat / 8 ∧
      (t.ppu.t.extractLsb' 12 3).toNat = second.toNat % 8 ∧
      t.ppu.t.extractLsb' 10 2 = s.ppu.t.extractLsb' 10 2 ∧ t.ppu.v = s.ppu.v ∧ t.ppu.w = false)) ∧
  ∀ (s : State) (a : Word) (v : Byte), 0x2000 ≤ a.toNat → a.toNat < 0x4000 →
    let writes (p : Ppu) : Prop :=
      memWrite a v s = .ok () { s with bus := { s.bus with openBus := v }, ppu := p }
    let old := s.ppu.t
    (a.toNat % 8 = 5 → s.ppu.w = false → ∃ (t : Scroll) (x : BitVec 3),
      writes { s.ppu with t := t, x := x, w := true } ∧ x.toNat = v.toNat % 8 ∧
      (t.extractLsb' 0 5).toNat = v.toNat / 8 ∧ t.extractLsb' 5 10 = old.extractLsb' 5 10) ∧
    (a.toNat % 8 = 5 → s.ppu.w = true → ∃ t : Scroll, writes { s.ppu with t := t, w := false } ∧
      (t.extractLsb' 5 5).toNat = v.toNat / 8 ∧ (t.extractLsb' 12 3).toNat = v.toNat % 8 ∧
      t.extractLsb' 0 5 = old.extractLsb' 0 5 ∧ t.extractLsb' 10 2 = old.extractLsb' 10 2) ∧
    (a.toNat % 8 = 6 → s.ppu.w = false → ∃ t : Scroll, writes { s.ppu with t := t, w := true } ∧
      t.toNat = v.toNat % 64 * 256 + old.toNat % 256) ∧
    (a.toNat % 8 = 6 → s.ppu.w = true → ∃ t : Scroll, writes { s.ppu with t := t, v := t, w := false } ∧
      t.toNat = old.toNat / 256 * 256 + v.toNat)

/-- R292, R293, R294, R298, R301: the scroll increments and copies, field by field: coarse X in bits 4:0,
coarse Y in 9:5, the nametable bits 10 and 11, fine Y in 14:12. And when a dot applies them to `v`: only
while rendering, coarse X at the last fine column of a tile in dots 1 to 256 of a Render line, then fine Y
at dot 256, the horizontal copy at dot 257 of a Render or PreRender line, the vertical copy at dots 280 to
304 of PreRender; every other dot leaves `v`. Spec decisions: D24, D30 (notes/assumptions 17). -/
def Obligations.ScrollIncrementsByField : Prop :=
  (∀ v t : Scroll,
    let cx (u : Scroll) : Nat := (u.extractLsb' 0 5).toNat
    let cy (u : Scroll) : Nat := (u.extractLsb' 5 5).toNat
    let fy (u : Scroll) : Nat := (u.extractLsb' 12 3).toNat
    let nx (u : Scroll) : Bool := u.getLsbD 10
    let ny (u : Scroll) : Bool := u.getLsbD 11
    (cx (incrementX v) = (cx v + 1) % 32 ∧ nx (incrementX v) = (nx v != (cx v == 31)) ∧
      cy (incrementX v) = cy v ∧ fy (incrementX v) = fy v ∧ ny (incrementX v) = ny v) ∧
    (fy (incrementY v) = (fy v + 1) % 8 ∧
      cy (incrementY v) = (if fy v < 7 then cy v else if cy v = 29 then 0 else (cy v + 1) % 32) ∧
      ny (incrementY v) = (ny v != (fy v == 7 && cy v == 29)) ∧
      cx (incrementY v) = cx v ∧ nx (incrementY v) = nx v) ∧
    (cx (copyHorizontal v t) = cx t ∧ nx (copyHorizontal v t) = nx t ∧
      cy (copyHorizontal v t) = cy v ∧ fy (copyHorizontal v t) = fy v ∧ ny (copyHorizontal v t) = ny v) ∧
    (cy (copyVertical v t) = cy t ∧ fy (copyVertical v t) = fy t ∧ ny (copyVertical v t) = ny t ∧
      cx (copyVertical v t) = cx v ∧ nx (copyVertical v t) = nx v)) ∧
  ∀ s : State,
    let p := s.ppu
    let on : Prop := s.halted = none ∧ (p.mask.getLsbD 3 = true ∨ p.mask.getLsbD 4 = true)
    let isLine : Prop := p.renderState = .render ∨ p.renderState = .preRender
    let v' := (clock s).2.ppu.v
    (on → p.renderState = .render → 1 ≤ p.cycle → p.cycle ≤ 256 →
      let moved := if (p.x.toNat + (p.cycle - 1)) % 8 = 7 then incrementX p.v else p.v
      v' = if p.cycle = 256 then incrementY moved else moved) ∧
    (on → isLine → p.cycle = 257 → v' = copyHorizontal p.v p.t) ∧
    (on → p.renderState = .preRender → 280 ≤ p.cycle → p.cycle ≤ 304 → v' = copyVertical p.v p.t) ∧
    (¬ (on ∧ (p.renderState = .render ∧ 1 ≤ p.cycle ∧ p.cycle ≤ 256 ∨ isLine ∧ p.cycle = 257 ∨
      p.renderState = .preRender ∧ 280 ≤ p.cycle ∧ p.cycle ≤ 304)) → v' = p.v)

/-- R242, R243, R247, R248, R300, R301, R302, R309, R375: exactly when a dot requests an interrupt: NMI at
the first dot of vertical blanking with PPUCTRL bit 7 set; IRQ at dot 260 of a Render or PreRender line
while rendering, on mapper 004, with its counter at zero after the hook's count and its enable set. And the
status flags: the first dot of vertical blanking sets vblank, PreRender dot 1 clears all three, every other
dot leaves vblank and clears neither of the other two. A dot of the system step leaves `Finished` first and
latches what `clock()` requests; a step makes three. Spec decisions: D25, D26, D30, D32, D39
(notes/assumptions 17). -/
def Obligations.WhenADotRequestsAnInterrupt : Prop :=
  (∀ s : State,
    ((clock s).1 = .generateNMI ↔ s.halted = none ∧ s.ppu.renderState = .verticalBlanking ∧
      s.ppu.scanline = 242 ∧ s.ppu.cycle = 0 ∧ s.ppu.ctrl.getLsbD 7 = true) ∧
    ((clock s).1 = .generateIRQ ↔ s.halted = none ∧
      (s.ppu.renderState = .render ∨ s.ppu.renderState = .preRender) ∧ s.ppu.cycle = 260 ∧
      (s.ppu.mask.getLsbD 3 = true ∨ s.ppu.mask.getLsbD 4 = true) ∧
      ∃ r, s.cart.mapper = .m004 r ∧ r.irqEnable = true ∧
        (if r.irqCounter = 0 ∨ r.irqReload = true then r.irqLatch else r.irqCounter - 1) = 0) ∧
    let p := (clock s).2.ppu
    let clears : Prop := s.halted = none ∧ s.ppu.renderState = .preRender ∧ s.ppu.cycle = 1
    let starts : Prop := s.halted = none ∧ s.ppu.renderState = .verticalBlanking ∧
      s.ppu.scanline = 242 ∧ s.ppu.cycle = 0
    (starts → p.vblank = true) ∧ (clears → p.vblank = false ∧ p.sprite0Hit = false ∧
      p.spriteOverflow = false) ∧
    (¬ starts → ¬ clears → p.vblank = s.ppu.vblank) ∧
    (¬ clears → (s.ppu.sprite0Hit = true → p.sprite0Hit = true) ∧
      (s.ppu.spriteOverflow = true → p.spriteOverflow = true))) ∧
  ∀ s : State,
    let u : State := if s.ppu.renderState = .finished then
        { s with ppu := { s.ppu with renderState := .preRender } } else s
    let r := clock u
    threeDots s = dot (dot (dot s)) ∧
    dot s = { r.2 with cpu := { r.2.cpu with
      nmiPending := r.2.cpu.nmiPending || decide (r.1 = .generateNMI)
      irqPending := r.2.cpu.irqPending || decide (r.1 = .generateIRQ) } }

/-- R297, R303: a dot moves to the next of its scanline, and from the last, dot 340 or dot 339 of PreRender
with the parity bit set, to the next scanline with its render state, flipping the parity after PreRender.
From the first dot of PreRender, a frame takes 89342 dots, or 89341 when the parity bit is set, to the
`Finished` state at the same position, passes no `Finished` state before, and flips the parity. Spec
decisions: D25, D26, D27 (notes/assumptions 17). -/
def Obligations.FrameTakesItsDots : Prop :=
  (∀ s : State, s.halted = none → s.ppu.renderState ≠ .finished →
    let last := if s.ppu.renderState = .preRender ∧ s.ppu.oddFrame = true then 339 else 340
    let line := s.ppu.scanline
    let p := (clock s).2.ppu
    (s.ppu.cycle < last → p.cycle = s.ppu.cycle + 1 ∧ p.scanline = line ∧
      p.renderState = s.ppu.renderState ∧ p.oddFrame = s.ppu.oddFrame) ∧
    (last ≤ s.ppu.cycle → p.cycle = 0 ∧ p.scanline = (if line = 261 then 0 else line + 1) ∧
      p.renderState = (if line = 239 then .postRender else if line = 241 then .verticalBlanking
        else if line = 260 then .finished else if line = 261 then .render else s.ppu.renderState) ∧
      p.oddFrame = (s.ppu.oddFrame != decide (line = 261)))) ∧
  ∀ s : State, s.halted = none → s.ppu.renderState = .preRender → s.ppu.scanline = 261 →
    s.ppu.cycle = 0 →
    let n := if s.ppu.oddFrame then 89341 else 89342
    let t := dot^[n] s
    t.halted = none ∧ t.ppu.renderState = .finished ∧ t.ppu.scanline = 261 ∧ t.ppu.cycle = 0 ∧
    t.ppu.oddFrame = !s.ppu.oddFrame ∧
    ∀ k, k < n → (dot^[k] s).ppu.renderState ≠ .finished

/-- R298, R301, R308: sprite evaluation caches the first eight OAM entries, in OAM order, whose rows cover
the next scanline, and sets the overflow flag when there is a ninth and rendering is enabled. Dot 340 of a
Render line applies it, PreRender dot 339 empties the cache, no other dot changes the cache, and none but
dot 340 of a Render line sets the overflow flag. Spec decisions: D29, D30 (notes/assumptions 17). -/
def Obligations.SpriteEvaluation : Prop :=
  (∀ (line : Nat) (p : Ppu),
    let h := if p.ctrl.getLsbD 5 then 16 else 8
    let y (i : Nat) : Nat := (readCell p.oam (4 * i)).toNat
    let found := (List.range 64).filter fun i => decide (y i ≤ line ∧ line < y i + h)
    let q := evaluateSprites line p
    q.secCount = min found.length 8 ∧
    (∀ k : Fin 8, k.val < q.secCount → found[k.val]? = some (q.secIndex[k]).toNat) ∧
    q.spriteOverflow = (p.spriteOverflow || decide (8 < found.length) && rendering p)) ∧
  ∀ s : State,
    let q := (clock s).2.ppu
    let found := evaluateSprites s.ppu.scanline s.ppu
    let evaluates : Prop := s.halted = none ∧ s.ppu.renderState = .render ∧ s.ppu.cycle = 340
    let empties : Prop := s.halted = none ∧ s.ppu.renderState = .preRender ∧ s.ppu.cycle = 339
    (evaluates → q.secCount = found.secCount ∧ q.secIndex = found.secIndex ∧
      q.spriteOverflow = found.spriteOverflow) ∧
    (empties → q.secCount = 0) ∧
    (¬ evaluates → q.secIndex = s.ppu.secIndex ∧
      (s.ppu.spriteOverflow = false → q.spriteOverflow = false)) ∧
    (¬ evaluates → ¬ empties → q.secCount = s.ppu.secCount)

/-- R298, R304 to R307: a dot of columns 0 to 255 of a Render line raises the sprite-zero flag exactly where
the front sprite is OAM entry 0, the background pixel is above 0 and the column is not 255, and draws the
colour of the palette entry that background, front sprite and priority choose; so the flag rises only with
background and sprites on, in columns 0 to 7 with both left-column bits on too, and with OAM entry 0 cached,
and with rendering disabled the pixel is the backdrop's colour. The flag stays set but at PreRender dot 1.
The OAM format is from general knowledge (R310). Spec decisions: D28, D29, D30, D41 (notes/assumptions 17).
-/
def Obligations.SpriteZeroAndBackdrop : Prop :=
  ∀ s : State, s.halted = none →
    let t := (clock s).2
    (s.ppu.sprite0Hit = false → t.ppu.sprite0Hit = true →
      s.ppu.renderState = .render ∧ 1 ≤ s.ppu.cycle ∧ s.ppu.cycle ≤ 255 ∧
      s.ppu.mask.getLsbD 3 = true ∧ s.ppu.mask.getLsbD 4 = true ∧
      (s.ppu.cycle ≤ 8 → s.ppu.mask.getLsbD 1 = true ∧ s.ppu.mask.getLsbD 2 = true) ∧
      0 ∈ s.ppu.secIndex.toList.take s.ppu.secCount) ∧
    (s.ppu.sprite0Hit = true → ¬ (s.ppu.renderState = .preRender ∧ s.ppu.cycle = 1) →
      t.ppu.sprite0Hit = true) ∧
    (s.ppu.renderState = .render → 1 ≤ s.ppu.cycle → s.ppu.cycle ≤ 256 →
      s.ppu.mask.getLsbD 3 = false → s.ppu.mask.getLsbD 4 = false → storeWf s.ppu.pixels = true →
      pixelAt t s.ppu.scanline (s.ppu.cycle - 1) =
        readCell s.systemPalette ((readCell s.ppu.palette 0).toNat % 64)) ∧
    (s.ppu.renderState = .render → 1 ≤ s.ppu.cycle → s.ppu.cycle ≤ 256 →
      let px := s.ppu.cycle - 1
      (t.ppu.sprite0Hit = true ↔ s.ppu.sprite0Hit = true ∨
        frontSprite s px s.ppu.scanline = some 0 ∧ 0 < (backgroundNumbers s px).1 ∧ px ≠ 255) ∧
      (storeWf s.ppu.pixels = true → pixelAt t s.ppu.scanline px =
        readCell s.systemPalette ((readCell s.ppu.palette (pixelEntry s px s.ppu.scanline)).toNat % 64)))

/-- R351 to R356: with mapper 001's shift register empty, five writes of bits 0 to 4 of `n` set the register
that the fifth write's address selects and empty the shift register: control at `$8000` (with the
mirroring), the CHR bank registers at `$A000` and `$C000`, the PRG bank register at `$E000`. Then the PRG
windows are those of the PRG mode and bank, where control or the PRG bank was written, and the CHR windows
those of the CHR mode and banks, where control or a CHR bank was; nothing else changes. A write with bit 7
set empties the shift register and changes nothing else. Spec decisions: D34, D35, D38 (notes/assumptions
17). -/
def Obligations.SerialWritesSetThePrgBank : Prop :=
  ∀ (c : Cart) (r : Mapper001) (a0 a1 a2 a3 a4 : Word) (v0 v1 v2 v3 v4 : Byte) (n : BitVec 5),
    c.mapper = .m001 r → r.shift = 0 → r.shiftCount = 0 → 0x8000 ≤ a4.toNat → 0 < c.prgUnits →
    [v0, v1, v2, v3, v4].map (fun v => v.getLsbD 7) = [false, false, false, false, false] →
    [v0, v1, v2, v3, v4].map (fun v => v.getLsbD 0) = (List.range 5).map n.getLsbD →
    let region := a4.toNat / 0x2000
    let q : Mapper001 :=
      if region = 4 then { r with control := n } else if region = 5 then { r with chrBank0 := n }
      else if region = 6 then { r with chrBank1 := n } else { r with prgBank := n }
    let b := q.prgBank.toNat % 16
    let prg16 (low high : Nat) : Vector Nat 4 :=
      let l := low % c.prgUnits * 16384
      let h := high % c.prgUnits * 16384
      #v[l, l + 8192, h, h + 8192]
    let mode := q.control.toNat / 4 % 4
    let chr (k : Nat) : Nat :=
      if q.control.getLsbD 4 = false then 8 * (q.chrBank0.toNat / 2) + k
      else if k < 4 then 4 * q.chrBank0.toNat + k else 4 * q.chrBank1.toNat + (k - 4)
    mapperWrite a4 v4 (mapperWrite a3 v3 (mapperWrite a2 v2 (mapperWrite a1 v1 (mapperWrite a0 v0 c)))) =
      { c with
        mapper := .m001 q
        mirroring := if region ≠ 4 then c.mirroring
          else if n.toNat % 4 = 0 then .singleLower else if n.toNat % 4 = 1 then .singleUpper
          else if n.toNat % 4 = 2 then .vertical else .horizontal
        ntOffset := if region ≠ 4 then c.ntOffset
          else if n.toNat % 4 = 0 then #v[0, 0, 0, 0]
          else if n.toNat % 4 = 1 then #v[0x400, 0x400, 0x400, 0x400]
          else if n.toNat % 4 = 2 then #v[0, 0x400, 0, 0x400] else #v[0, 0, 0x400, 0x400]
        prgOff := if region = 5 ∨ region = 6 then c.prgOff
          else if mode = 2 then prg16 0 b else if mode = 3 then prg16 b (c.prgUnits - 1)
          else prg16 (b / 2 * 2) (b / 2 * 2 + 1)
        chrOff := if region = 7 then c.chrOff
          else Vector.ofFn fun k => chr k.val % (8 * max c.chrUnits 1) * 1024 } ∧
    ∀ (a : Word) (v : Byte) (e : Cart) (q : Mapper001), e.mapper = .m001 q → v.getLsbD 7 = true →
      mapperWrite a v e = { e with mapper := .m001 { q with shift := 0, shiftCount := 0 } }

/-- R350, R358, R360, R362, R363, R365, R378, R380, R382: what a write of `v` to `$8000` or above does to
the cartridge: nothing on mapper 000; on the latch mappers the windows of the bank numbers in `v`, each
modulo the banks present; on mapper 004, by range and parity of the address, bank select and bank value with
all four PRG windows by bit 6 and all eight CHR windows by bit 7 of the bank select, the mirroring, nothing
for PRG-RAM protect, the IRQ latch, its reload, disable and enable. Spec decisions: D34, D35
(notes/assumptions 17). -/
def Obligations.BankRegisterWrites : Prop :=
  ∀ (a : Word) (v : Byte) (l : Byte) (c : Cart), 0 < c.prgUnits →
    let n := v.toNat
    let prg32 (b : Nat) : Vector Nat 4 := Vector.ofFn fun k => (4 * b + k.val) % (2 * c.prgUnits) * 8192
    let chr8 (b : Nat) : Vector Nat 8 :=
      Vector.ofFn fun k => (8 * b + k.val) % (8 * max c.chrUnits 1) * 1024
    (c.mapper = .m000 → mapperWrite a v c = c) ∧
    (c.mapper = .m002 l → mapperWrite a v c = { c with
      mapper := .m002 v
      prgOff := #v[2 * n % (2 * c.prgUnits) * 8192, (2 * n + 1) % (2 * c.prgUnits) * 8192,
        c.prgOff[2], c.prgOff[3]] }) ∧
    (c.mapper = .m003 l → mapperWrite a v c = { c with mapper := .m003 v, chrOff := chr8 n }) ∧
    (c.mapper = .m007 l → mapperWrite a v c = { c with
      mapper := .m007 v, prgOff := prg32 (n % 8)
      mirroring := if v.getLsbD 4 then .singleUpper else .singleLower
      ntOffset := if v.getLsbD 4 then #v[0x400, 0x400, 0x400, 0x400] else #v[0, 0, 0, 0] }) ∧
    (c.mapper = .m011 l → mapperWrite a v c = { c with
      mapper := .m011 v, prgOff := prg32 (n % 4), chrOff := chr8 (n / 16) }) ∧
    (c.mapper = .m066 l → mapperWrite a v c = { c with
      mapper := .m066 v, prgOff := prg32 (n / 16 % 4), chrOff := chr8 (n % 4) }) ∧
    ∀ r : Mapper004, c.mapper = .m004 r →
      let odd : Bool := decide (a.toNat % 2 = 1)
      (0x8000 ≤ a.toNat → a.toNat < 0xA000 →
        let q : Mapper004 := if odd then
            { r with bankReg := r.bankReg.set (r.bankSelect.extractLsb' 0 3).toFin v }
          else { r with bankSelect := v }
        let reg (k : Fin 8) : Nat := (q.bankReg[k]).toNat
        let last := 2 * c.prgUnits - 1
        let prg8 : Vector Nat 4 := if q.bankSelect.getLsbD 6 then #v[last - 1, reg 7, reg 6, last]
          else #v[reg 6, reg 7, last - 1, last]
        let chr1 : Vector Nat 8 := #v[reg 0 / 2 * 2, reg 0 / 2 * 2 + 1, reg 1 / 2 * 2, reg 1 / 2 * 2 + 1,
          reg 2, reg 3, reg 4, reg 5]
        let inverted : Fin 8 := if q.bankSelect.getLsbD 7 then 4 else 0
        mapperWrite a v c = { c with
          mapper := .m004 q
          prgOff := Vector.ofFn fun k => prg8[k] % (2 * c.prgUnits) * 8192
          chrOff := Vector.ofFn fun k => chr1[k + inverted] % (8 * max c.chrUnits 1) * 1024 }) ∧
      (0xA000 ≤ a.toNat → a.toNat < 0xC000 → mapperWrite a v c =
        if odd then c
        else if v.getLsbD 0 then
          { c with mirroring := .horizontal, ntOffset := #v[0, 0, 0x400, 0x400] }
        else { c with mirroring := .vertical, ntOffset := #v[0, 0x400, 0, 0x400] }) ∧
      (0xC000 ≤ a.toNat → a.toNat < 0xE000 → mapperWrite a v c = { c with
        mapper := .m004 (if odd then { r with irqReload := true } else { r with irqLatch := v }) }) ∧
      (0xE000 ≤ a.toNat → mapperWrite a v c = { c with
        mapper := .m004 { r with irqEnable := odd } })

/-- R375: on mapper 004 with a reload requested, the IRQ enabled and the latch at `n` above 0, the hook
answers no on its first `n` calls and yes on the next. Spec decisions: D39 (notes/assumptions 17). -/
def Obligations.ScanlineCounterCountsTheLatch : Prop :=
  ∀ (c : Cart) (r : Mapper004), c.mapper = .m004 r → r.irqReload = true → r.irqEnable = true →
    r.irqLatch ≠ 0 →
    ∀ k, k ≤ r.irqLatch.toNat →
      (scanlineIrq ((fun d => (scanlineIrq d).2)^[k] c)).1 = decide (k = r.irqLatch.toNat)

/-- R25, D47: `P & 0x30 == 0x20` is kept by every system step. Spec decisions: D12, D47 (notes/assumptions
17). -/
def Obligations.StatusInvariantKept : Prop :=
  ∀ s t : State, StatusInv s → step s = .next t → StatusInv t

/-- R38, R39, R43, R91, R297, R347, R412 and the canonical form of every memory (notes/assumptions 3): the
whole invariant of a run is kept by every system step, and its part about the banks alone too. Spec
decisions: D22, D25, D26, D34, D47 (notes/assumptions 17). -/
def Obligations.MachineInvariantKept : Prop :=
  ∀ s t : State, step s = .next t →
    (MachineInv s → MachineInv t) ∧ (BankInv s.cart → BankInv t.cart)

/-- R41, R340: no system step changes the constants of the load: `MAPPER_ID`, the unit counts, PRG-ROM and,
on a cartridge with CHR-ROM, CHR. -/
def Obligations.LoadedCartridgeIsConstant : Prop :=
  ∀ s t : State, step s = .next t →
    t.cart.mapper.id = s.cart.mapper.id ∧ t.cart.format = s.cart.format ∧
    t.cart.tvSystem = s.cart.tvSystem ∧ t.cart.prgUnits = s.cart.prgUnits ∧
    t.cart.chrUnits = s.cart.chrUnits ∧ t.cart.prgRamUnits = s.cart.prgRamUnits ∧
    t.cart.prgRom = s.cart.prgRom ∧ (0 < s.cart.chrUnits → t.cart.chr = s.cart.chr)

/-- R46, R47, R48: `State.reset` is the machine after power-on and one `Reset()`, with every value the three
tables give, and power-on has the values of their power-on column whatever the parameters; the cartridge,
`RAM_INIT` and the other OPEN contents of `State.reset` are the model's choice (notes/assumptions 2, 3, 4).
It meets the invariant. Spec decisions: D5, D6, D8 to D11, D20, D22 to D25, D27, D29 (notes/assumptions 17).
-/
def Obligations.ResetStateMeetsTheTables : Prop :=
  State.reset = hostReset (powerOn resetParameters) ∧
  (State.reset.cpu = {
      a := 0x00, x := 0x00, y := 0x00, sp := 0xFD, p := 0x24, pc := vectorAt 0xFFFC State.reset
      remainingCycles := 7, tickCounter := 0, nmiPending := false, irqPending := false } ∧
    State.reset.halted = none) ∧
  (let b := State.reset.bus
   b.openBus = peek 0xFFFD State.reset ∧ b.strobe = false ∧ b.shift1 = 0x00 ∧ b.shift2 = 0x00 ∧
    b.dmaRequest = false) ∧
  (let p := State.reset.ppu
   p.v = 0 ∧ p.t = 0 ∧ p.x = 0 ∧ p.w = false ∧ p.ctrl = 0x00 ∧ p.mask = 0x00 ∧ p.vblank = false ∧
    p.sprite0Hit = false ∧ p.spriteOverflow = false ∧ p.oamAddr = 0x00 ∧ p.readBuffer = 0x00 ∧
    p.secCount = 0 ∧ p.renderState = .preRender ∧ p.scanline = 261 ∧ p.cycle = 0 ∧
    p.oddFrame = false) ∧
  MachineInv State.reset ∧
  ∀ q : Parameters,
    ((powerOn q).cpu = {
        a := 0x00, x := 0x00, y := 0x00, sp := 0x00, p := 0x20, pc := 0x0000, remainingCycles := 0
        tickCounter := 0, nmiPending := false, irqPending := false } ∧ (powerOn q).halted = none) ∧
    (let b := (powerOn q).bus
     b.ram = q.ramInit ∧ b.openBus = 0x00 ∧ b.strobe = false ∧ b.shift1 = 0x00 ∧ b.shift2 = 0x00 ∧
      b.dmaRequest = false) ∧
    (let p := (powerOn q).ppu
     p.v = 0 ∧ p.t = 0 ∧ p.x = 0 ∧ p.w = false ∧ p.ctrl = 0x00 ∧ p.mask = 0x00 ∧ p.vblank = false ∧
      p.sprite0Hit = false ∧ p.spriteOverflow = false ∧ p.oamAddr = 0x00 ∧ p.readBuffer = 0x00 ∧
      p.secCount = 0 ∧ p.renderState = .preRender ∧ p.scanline = 261 ∧ p.cycle = 0 ∧
      p.oddFrame = false) ∧
    (powerOn q).ppu.palette = q.paletteInit ∧ (powerOn q).ppu.oam = q.oamInit ∧
    (powerOn q).ppu.pixels = q.pixelsInit

/-- R49, R342, R346, R349, R400: every machine that loads starts in a state that meets the invariant,
whatever the OPEN contents, with the cartridge memories of its parameters and the mapper registers, bank
offsets and mirroring of the load table. Spec decisions: D9, D23, D33, D34, D37 (notes/assumptions 17). -/
def Obligations.EveryLoadedMachineMeetsTheInvariant : Prop :=
  ∀ (p : Parameters) (s : State), start p = .ok s →
    (MachineInv s ∧ s.halted = none) ∧
    (let c := s.cart
     c.prgRom = p.prgRom ∧ c.prgRam = p.prgRamInit ∧ c.ntRam = p.ntRamInit ∧
      c.chr = (if p.chrUnits = 0 then p.chrRamInit else p.chrRom)) ∧
    (s.cart.mapper = match p.mapperId with
      | .m000 => .m000
      | .m001 => .m001 ⟨0, 0, 0x0C, 0, 0, 0⟩
      | .m002 => .m002 0x00
      | .m003 => .m003 0x00
      | .m004 => .m004 ⟨0x00, #v[0, 2, 4, 5, 6, 7, 0, 1], 0x00, 0x00, false, false⟩
      | .m007 => .m007 0x00
      | .m011 => .m011 0x00
      | .m066 => .m066 0x00) ∧
    (let last := (p.prgUnits - 1) * 16384
     s.cart.prgOff = if p.mapperId ∈ [.m001, .m002, .m004] then #v[0, 8192, last, last + 8192]
      else Vector.ofFn fun k => k.val % (2 * p.prgUnits) * 8192) ∧
    (s.cart.chrOff = Vector.ofFn fun k => k.val * 1024) ∧
    (p.mirroring = .horizontal → s.cart.ntOffset = #v[0, 0, 0x400, 0x400]) ∧
    (p.mirroring = .vertical → s.cart.ntOffset = #v[0, 0x400, 0, 0x400])

/-- R401, R402, R405: `Reset()` on a running machine, field by field, and that a second one right after it
changes only `SP`, by 3; on a halted machine it does nothing. Spec decisions: D9, D24 (notes/assumptions
17). -/
def Obligations.ResetSetsItsFields : Prop :=
  ∀ s : State, (s.halted.isSome = true → hostReset s = s) ∧
    (s.halted = none →
      hostReset s = { s with
        cpu := { s.cpu with
          a := 0x00, x := 0x00, y := 0x00, sp := s.cpu.sp - 3, p := 0x24, pc := vectorAt 0xFFFC s,
          remainingCycles := 7, nmiPending := false, irqPending := false }
        bus := { s.bus with openBus := peek 0xFFFD s, dmaRequest := false }
        ppu := { s.ppu with
          ctrl := 0x00, mask := 0x00, t := 0, x := 0, w := false, readBuffer := 0x00,
          oddFrame := false } } ∧
      hostReset (hostReset s) = (hostReset s).setSp (s.cpu.sp - 6))

end
end

