-- ==== Sys2Proof/Laws/Memory.lean ====
section
/-! SUPPORT. The laws of the cell memories: a read after a write, the frame of a write, and that every
write keeps the canonical form and the size. -/

namespace Sys2Proof.Machine

variable {w : Nat}

@[simp] theorem readCell_nil (k : Nat) : readCell ([] : Store w) k = 0 := rfl

@[simp] theorem readCell_cons (i : Nat) (u : BitVec w) (m : Store w) (k : Nat) :
    readCell ((i, u) :: m) k = if i = k then u else readCell m k := rfl

@[simp] theorem storeAbove_nil (k : Nat) : storeAbove k ([] : Store w) = true := rfl

@[simp] theorem storeAbove_cons (k i : Nat) (u : BitVec w) (m : Store w) :
    storeAbove k ((i, u) :: m) = (decide (k < i) && storeAbove k m) := rfl

@[simp] theorem storeWf_nil : storeWf ([] : Store w) = true := rfl

@[simp] theorem storeWf_cons (i : Nat) (u : BitVec w) (m : Store w) :
    storeWf ((i, u) :: m) = (u != 0 && storeAbove i m && storeWf m) := rfl

@[simp] theorem storeWithin_nil (n : Nat) : storeWithin n ([] : Store w) = true := rfl

@[simp] theorem storeWithin_cons (n i : Nat) (u : BitVec w) (m : Store w) :
    storeWithin n ((i, u) :: m) = (decide (i < n) && storeWithin n m) := rfl

/-- A cell below every listed index reads as 0. -/
theorem readCell_of_storeAbove {m : Store w} {k j : Nat} (h : storeAbove k m = true) (hj : j ≤ k) :
    readCell m j = 0 := by
  induction m with
  | nil => rfl
  | cons c m ih =>
    obtain ⟨i, u⟩ := c
    simp only [storeAbove_cons, Bool.and_eq_true, decide_eq_true_eq] at h
    have hne : i ≠ j := by omega
    simp [hne, ih h.2]

theorem storeAbove_mono {m : Store w} {k j : Nat} (h : storeAbove k m = true) (hj : j ≤ k) :
    storeAbove j m = true := by
  simp only [storeAbove, List.all_eq_true, decide_eq_true_eq] at *
  exact fun c hc => Nat.lt_of_le_of_lt hj (h c hc)

theorem readCell_consCell_same {m : Store w} {k : Nat} (u : BitVec w) (h : storeAbove k m = true) :
    readCell (consCell k u m) k = u := by
  unfold consCell
  split
  · next hu => rw [hu]; exact readCell_of_storeAbove h (Nat.le_refl k)
  · simp

theorem readCell_consCell_other {m : Store w} {k j : Nat} (u : BitVec w) (hj : j ≠ k) :
    readCell (consCell k u m) j = readCell m j := by
  unfold consCell
  split
  · rfl
  · simp [Ne.symm hj]

/-- A write leaves every other cell alone. -/
theorem readCell_writeCell_other (m : Store w) {k j : Nat} (u : BitVec w) (hj : j ≠ k) :
    readCell (writeCell m k u) j = readCell m j := by
  induction m with
  | nil => exact readCell_consCell_other u hj
  | cons c m ih =>
    obtain ⟨i, t⟩ := c
    simp only [writeCell]
    split
    · exact readCell_consCell_other u hj
    · split
      · next h => rw [readCell_consCell_other u hj]; simp [← h, Ne.symm hj]
      · simp [ih]

/-- A read after a write to the same cell gives the value written. -/
theorem readCell_writeCell_same {m : Store w} (k : Nat) (u : BitVec w) (h : storeWf m = true) :
    readCell (writeCell m k u) k = u := by
  induction m with
  | nil => exact readCell_consCell_same u rfl
  | cons c m ih =>
    obtain ⟨i, t⟩ := c
    simp only [storeWf_cons, Bool.and_eq_true] at h
    simp only [writeCell]
    split
    · next hk =>
      exact readCell_consCell_same u (by simp [hk, storeAbove_mono h.1.2 (Nat.le_of_lt hk)])
    · split
      · next hk => exact readCell_consCell_same u (by rw [hk]; exact h.1.2)
      · next hk => simp [Ne.symm hk, ih h.2]

theorem readCell_writeCell {m : Store w} (k j : Nat) (u : BitVec w) (h : storeWf m = true) :
    readCell (writeCell m k u) j = if j = k then u else readCell m j := by
  split
  · next hj => rw [hj]; exact readCell_writeCell_same k u h
  · next hj => exact readCell_writeCell_other m u hj

theorem storeWf_consCell {m : Store w} {k : Nat} (u : BitVec w) (ha : storeAbove k m = true)
    (h : storeWf m = true) : storeWf (consCell k u m) = true := by
  unfold consCell
  split
  · exact h
  · next hu => simpa [ha, h] using hu

theorem storeAbove_consCell {m : Store w} {j k : Nat} (u : BitVec w) (hj : j < k)
    (h : storeAbove j m = true) : storeAbove j (consCell k u m) = true := by
  unfold consCell
  split
  · exact h
  · simp [hj, h]

theorem storeAbove_writeCell {m : Store w} {j k : Nat} (u : BitVec w) (hj : j < k)
    (h : storeAbove j m = true) : storeAbove j (writeCell m k u) = true := by
  induction m with
  | nil => exact storeAbove_consCell u hj rfl
  | cons c m ih =>
    obtain ⟨i, t⟩ := c
    have h' := h
    simp only [storeAbove_cons, Bool.and_eq_true] at h'
    simp only [writeCell]
    split
    · exact storeAbove_consCell u hj h
    · split
      · exact storeAbove_consCell u hj h'.2
      · simp only [storeAbove_cons, Bool.and_eq_true]
        exact ⟨h'.1, ih h'.2⟩

/-- A write keeps the canonical form. -/
theorem storeWf_writeCell {m : Store w} (k : Nat) (u : BitVec w) (h : storeWf m = true) :
    storeWf (writeCell m k u) = true := by
  induction m with
  | nil => exact storeWf_consCell u rfl rfl
  | cons c m ih =>
    obtain ⟨i, t⟩ := c
    have h' := h
    simp only [storeWf_cons, Bool.and_eq_true] at h'
    simp only [writeCell]
    split
    · next hk =>
      exact storeWf_consCell u (by simp [hk, storeAbove_mono h'.1.2 (Nat.le_of_lt hk)]) h
    · split
      · next hk => exact storeWf_consCell u (by rw [hk]; exact h'.1.2) h'.2
      · next h1 h2 =>
        have hi : i < k := by omega
        simp only [storeWf_cons, Bool.and_eq_true]
        exact ⟨⟨h'.1.1, storeAbove_writeCell u hi h'.1.2⟩, ih h'.2⟩

theorem storeWithin_consCell {m : Store w} {n k : Nat} (u : BitVec w) (hk : k < n)
    (h : storeWithin n m = true) : storeWithin n (consCell k u m) = true := by
  unfold consCell
  split
  · exact h
  · simp [hk, h]

/-- A write inside a memory's size keeps the size. -/
theorem storeWithin_writeCell {m : Store w} {n : Nat} (k : Nat) (u : BitVec w) (hk : k < n)
    (h : storeWithin n m = true) : storeWithin n (writeCell m k u) = true := by
  induction m with
  | nil => exact storeWithin_consCell u hk rfl
  | cons c m ih =>
    obtain ⟨i, t⟩ := c
    have h' := h
    simp only [storeWithin_cons, Bool.and_eq_true] at h'
    simp only [writeCell]
    split
    · exact storeWithin_consCell u hk h
    · split
      · exact storeWithin_consCell u hk h'.2
      · simp only [storeWithin_cons, Bool.and_eq_true]
        exact ⟨h'.1, ih h'.2⟩

theorem storeAbove_storeOfList (j k : Nat) (us : List (BitVec w)) (h : j < k) :
    storeAbove j (storeOfList k us) = true := by
  induction us generalizing k with
  | nil => rfl
  | cons u us ih => exact storeAbove_consCell u h (ih (k + 1) (by omega))

/-- A memory built from a list of values is canonical. -/
theorem storeWf_storeOfList (k : Nat) (us : List (BitVec w)) : storeWf (storeOfList k us) = true := by
  induction us generalizing k with
  | nil => rfl
  | cons u us ih =>
    exact storeWf_consCell u (storeAbove_storeOfList k (k + 1) us (by omega)) (ih (k + 1))

/-- Two canonical memories that read alike everywhere are equal data. -/
theorem store_ext {m m' : Store w} (h : storeWf m = true) (h' : storeWf m' = true)
    (hr : ∀ k, readCell m k = readCell m' k) : m = m' := by
  induction m generalizing m' with
  | nil =>
    cases m' with
    | nil => rfl
    | cons c m' =>
      obtain ⟨i, u⟩ := c
      have := hr i
      simp_all
  | cons c m ih =>
    obtain ⟨i, u⟩ := c
    cases m' with
    | nil =>
      have := hr i
      simp_all
    | cons c' m' =>
      obtain ⟨j, t⟩ := c'
      simp only [storeWf_cons, Bool.and_eq_true, bne_iff_ne, ne_eq] at h h'
      have hij : i = j := by
        rcases Nat.lt_trichotomy i j with hlt | heq | hgt
        · have := hr i
          simp only [readCell_cons, if_true, if_neg (Nat.ne_of_gt hlt),
            readCell_of_storeAbove h'.1.2 (Nat.le_of_lt hlt)] at this
          exact absurd this h.1.1
        · exact heq
        · have := hr j
          simp only [readCell_cons, if_true, if_neg (Nat.ne_of_gt hgt),
            readCell_of_storeAbove h.1.2 (Nat.le_of_lt hgt)] at this
          exact absurd this.symm h'.1.1
      subst hij
      have hu : u = t := by simpa using hr i
      subst hu
      congr 1
      refine ih h.2 h'.2 fun k => ?_
      by_cases hk : k = i
      · subst hk
        rw [readCell_of_storeAbove h.1.2 (Nat.le_refl k), readCell_of_storeAbove h'.1.2 (Nat.le_refl k)]
      · simpa [Ne.symm hk] using hr k

end Sys2Proof.Machine
end

