-- ==== Sys2Proof/Laws/State.lean ====
section
/-! SUPPORT. The small lemmas of State: every register write against every field, true by rfl, and the
equations of `Act`. Later proofs use these instead of unfolding a record update. -/

namespace Sys2Proof.Machine

section
variable (v : Byte) (s : State)

@[simp] theorem State.setA_a : (s.setA v).cpu.a = v := rfl
@[simp] theorem State.setA_x : (s.setA v).cpu.x = s.cpu.x := rfl
@[simp] theorem State.setA_y : (s.setA v).cpu.y = s.cpu.y := rfl
@[simp] theorem State.setA_sp : (s.setA v).cpu.sp = s.cpu.sp := rfl
@[simp] theorem State.setA_p : (s.setA v).cpu.p = s.cpu.p := rfl
@[simp] theorem State.setA_pc : (s.setA v).cpu.pc = s.cpu.pc := rfl
@[simp] theorem State.setA_remainingCycles : (s.setA v).cpu.remainingCycles = s.cpu.remainingCycles := rfl
@[simp] theorem State.setA_tickCounter : (s.setA v).cpu.tickCounter = s.cpu.tickCounter := rfl
@[simp] theorem State.setA_nmiPending : (s.setA v).cpu.nmiPending = s.cpu.nmiPending := rfl
@[simp] theorem State.setA_irqPending : (s.setA v).cpu.irqPending = s.cpu.irqPending := rfl
@[simp] theorem State.setA_halted : (s.setA v).halted = s.halted := rfl
@[simp] theorem State.setA_bus : (s.setA v).bus = s.bus := rfl
@[simp] theorem State.setA_ppu : (s.setA v).ppu = s.ppu := rfl
@[simp] theorem State.setA_cart : (s.setA v).cart = s.cart := rfl
@[simp] theorem State.setA_buttons1 : (s.setA v).buttons1 = s.buttons1 := rfl
@[simp] theorem State.setA_buttons2 : (s.setA v).buttons2 = s.buttons2 := rfl
@[simp] theorem State.setA_systemPalette : (s.setA v).systemPalette = s.systemPalette := rfl

end

section
variable (v : Byte) (s : State)

@[simp] theorem State.setX_a : (s.setX v).cpu.a = s.cpu.a := rfl
@[simp] theorem State.setX_x : (s.setX v).cpu.x = v := rfl
@[simp] theorem State.setX_y : (s.setX v).cpu.y = s.cpu.y := rfl
@[simp] theorem State.setX_sp : (s.setX v).cpu.sp = s.cpu.sp := rfl
@[simp] theorem State.setX_p : (s.setX v).cpu.p = s.cpu.p := rfl
@[simp] theorem State.setX_pc : (s.setX v).cpu.pc = s.cpu.pc := rfl
@[simp] theorem State.setX_remainingCycles : (s.setX v).cpu.remainingCycles = s.cpu.remainingCycles := rfl
@[simp] theorem State.setX_tickCounter : (s.setX v).cpu.tickCounter = s.cpu.tickCounter := rfl
@[simp] theorem State.setX_nmiPending : (s.setX v).cpu.nmiPending = s.cpu.nmiPending := rfl
@[simp] theorem State.setX_irqPending : (s.setX v).cpu.irqPending = s.cpu.irqPending := rfl
@[simp] theorem State.setX_halted : (s.setX v).halted = s.halted := rfl
@[simp] theorem State.setX_bus : (s.setX v).bus = s.bus := rfl
@[simp] theorem State.setX_ppu : (s.setX v).ppu = s.ppu := rfl
@[simp] theorem State.setX_cart : (s.setX v).cart = s.cart := rfl
@[simp] theorem State.setX_buttons1 : (s.setX v).buttons1 = s.buttons1 := rfl
@[simp] theorem State.setX_buttons2 : (s.setX v).buttons2 = s.buttons2 := rfl
@[simp] theorem State.setX_systemPalette : (s.setX v).systemPalette = s.systemPalette := rfl

end

section
variable (v : Byte) (s : State)

@[simp] theorem State.setY_a : (s.setY v).cpu.a = s.cpu.a := rfl
@[simp] theorem State.setY_x : (s.setY v).cpu.x = s.cpu.x := rfl
@[simp] theorem State.setY_y : (s.setY v).cpu.y = v := rfl
@[simp] theorem State.setY_sp : (s.setY v).cpu.sp = s.cpu.sp := rfl
@[simp] theorem State.setY_p : (s.setY v).cpu.p = s.cpu.p := rfl
@[simp] theorem State.setY_pc : (s.setY v).cpu.pc = s.cpu.pc := rfl
@[simp] theorem State.setY_remainingCycles : (s.setY v).cpu.remainingCycles = s.cpu.remainingCycles := rfl
@[simp] theorem State.setY_tickCounter : (s.setY v).cpu.tickCounter = s.cpu.tickCounter := rfl
@[simp] theorem State.setY_nmiPending : (s.setY v).cpu.nmiPending = s.cpu.nmiPending := rfl
@[simp] theorem State.setY_irqPending : (s.setY v).cpu.irqPending = s.cpu.irqPending := rfl
@[simp] theorem State.setY_halted : (s.setY v).halted = s.halted := rfl
@[simp] theorem State.setY_bus : (s.setY v).bus = s.bus := rfl
@[simp] theorem State.setY_ppu : (s.setY v).ppu = s.ppu := rfl
@[simp] theorem State.setY_cart : (s.setY v).cart = s.cart := rfl
@[simp] theorem State.setY_buttons1 : (s.setY v).buttons1 = s.buttons1 := rfl
@[simp] theorem State.setY_buttons2 : (s.setY v).buttons2 = s.buttons2 := rfl
@[simp] theorem State.setY_systemPalette : (s.setY v).systemPalette = s.systemPalette := rfl

end

section
variable (v : Byte) (s : State)

@[simp] theorem State.setSp_a : (s.setSp v).cpu.a = s.cpu.a := rfl
@[simp] theorem State.setSp_x : (s.setSp v).cpu.x = s.cpu.x := rfl
@[simp] theorem State.setSp_y : (s.setSp v).cpu.y = s.cpu.y := rfl
@[simp] theorem State.setSp_sp : (s.setSp v).cpu.sp = v := rfl
@[simp] theorem State.setSp_p : (s.setSp v).cpu.p = s.cpu.p := rfl
@[simp] theorem State.setSp_pc : (s.setSp v).cpu.pc = s.cpu.pc := rfl
@[simp] theorem State.setSp_remainingCycles : (s.setSp v).cpu.remainingCycles = s.cpu.remainingCycles := rfl
@[simp] theorem State.setSp_tickCounter : (s.setSp v).cpu.tickCounter = s.cpu.tickCounter := rfl
@[simp] theorem State.setSp_nmiPending : (s.setSp v).cpu.nmiPending = s.cpu.nmiPending := rfl
@[simp] theorem State.setSp_irqPending : (s.setSp v).cpu.irqPending = s.cpu.irqPending := rfl
@[simp] theorem State.setSp_halted : (s.setSp v).halted = s.halted := rfl
@[simp] theorem State.setSp_bus : (s.setSp v).bus = s.bus := rfl
@[simp] theorem State.setSp_ppu : (s.setSp v).ppu = s.ppu := rfl
@[simp] theorem State.setSp_cart : (s.setSp v).cart = s.cart := rfl
@[simp] theorem State.setSp_buttons1 : (s.setSp v).buttons1 = s.buttons1 := rfl
@[simp] theorem State.setSp_buttons2 : (s.setSp v).buttons2 = s.buttons2 := rfl
@[simp] theorem State.setSp_systemPalette : (s.setSp v).systemPalette = s.systemPalette := rfl

end

section
variable (v : Byte) (s : State)

@[simp] theorem State.setP_a : (s.setP v).cpu.a = s.cpu.a := rfl
@[simp] theorem State.setP_x : (s.setP v).cpu.x = s.cpu.x := rfl
@[simp] theorem State.setP_y : (s.setP v).cpu.y = s.cpu.y := rfl
@[simp] theorem State.setP_sp : (s.setP v).cpu.sp = s.cpu.sp := rfl
@[simp] theorem State.setP_p : (s.setP v).cpu.p = v := rfl
@[simp] theorem State.setP_pc : (s.setP v).cpu.pc = s.cpu.pc := rfl
@[simp] theorem State.setP_remainingCycles : (s.setP v).cpu.remainingCycles = s.cpu.remainingCycles := rfl
@[simp] theorem State.setP_tickCounter : (s.setP v).cpu.tickCounter = s.cpu.tickCounter := rfl
@[simp] theorem State.setP_nmiPending : (s.setP v).cpu.nmiPending = s.cpu.nmiPending := rfl
@[simp] theorem State.setP_irqPending : (s.setP v).cpu.irqPending = s.cpu.irqPending := rfl
@[simp] theorem State.setP_halted : (s.setP v).halted = s.halted := rfl
@[simp] theorem State.setP_bus : (s.setP v).bus = s.bus := rfl
@[simp] theorem State.setP_ppu : (s.setP v).ppu = s.ppu := rfl
@[simp] theorem State.setP_cart : (s.setP v).cart = s.cart := rfl
@[simp] theorem State.setP_buttons1 : (s.setP v).buttons1 = s.buttons1 := rfl
@[simp] theorem State.setP_buttons2 : (s.setP v).buttons2 = s.buttons2 := rfl
@[simp] theorem State.setP_systemPalette : (s.setP v).systemPalette = s.systemPalette := rfl

end

section
variable (v : Word) (s : State)

@[simp] theorem State.setPc_a : (s.setPc v).cpu.a = s.cpu.a := rfl
@[simp] theorem State.setPc_x : (s.setPc v).cpu.x = s.cpu.x := rfl
@[simp] theorem State.setPc_y : (s.setPc v).cpu.y = s.cpu.y := rfl
@[simp] theorem State.setPc_sp : (s.setPc v).cpu.sp = s.cpu.sp := rfl
@[simp] theorem State.setPc_p : (s.setPc v).cpu.p = s.cpu.p := rfl
@[simp] theorem State.setPc_pc : (s.setPc v).cpu.pc = v := rfl
@[simp] theorem State.setPc_remainingCycles : (s.setPc v).cpu.remainingCycles = s.cpu.remainingCycles := rfl
@[simp] theorem State.setPc_tickCounter : (s.setPc v).cpu.tickCounter = s.cpu.tickCounter := rfl
@[simp] theorem State.setPc_nmiPending : (s.setPc v).cpu.nmiPending = s.cpu.nmiPending := rfl
@[simp] theorem State.setPc_irqPending : (s.setPc v).cpu.irqPending = s.cpu.irqPending := rfl
@[simp] theorem State.setPc_halted : (s.setPc v).halted = s.halted := rfl
@[simp] theorem State.setPc_bus : (s.setPc v).bus = s.bus := rfl
@[simp] theorem State.setPc_ppu : (s.setPc v).ppu = s.ppu := rfl
@[simp] theorem State.setPc_cart : (s.setPc v).cart = s.cart := rfl
@[simp] theorem State.setPc_buttons1 : (s.setPc v).buttons1 = s.buttons1 := rfl
@[simp] theorem State.setPc_buttons2 : (s.setPc v).buttons2 = s.buttons2 := rfl
@[simp] theorem State.setPc_systemPalette : (s.setPc v).systemPalette = s.systemPalette := rfl

end

section
variable (n : Nat) (s : State)

@[simp] theorem State.setRemaining_a : (s.setRemaining n).cpu.a = s.cpu.a := rfl
@[simp] theorem State.setRemaining_x : (s.setRemaining n).cpu.x = s.cpu.x := rfl
@[simp] theorem State.setRemaining_y : (s.setRemaining n).cpu.y = s.cpu.y := rfl
@[simp] theorem State.setRemaining_sp : (s.setRemaining n).cpu.sp = s.cpu.sp := rfl
@[simp] theorem State.setRemaining_p : (s.setRemaining n).cpu.p = s.cpu.p := rfl
@[simp] theorem State.setRemaining_pc : (s.setRemaining n).cpu.pc = s.cpu.pc := rfl
@[simp] theorem State.setRemaining_remainingCycles : (s.setRemaining n).cpu.remainingCycles = n := rfl
@[simp] theorem State.setRemaining_tickCounter : (s.setRemaining n).cpu.tickCounter = s.cpu.tickCounter := rfl
@[simp] theorem State.setRemaining_nmiPending : (s.setRemaining n).cpu.nmiPending = s.cpu.nmiPending := rfl
@[simp] theorem State.setRemaining_irqPending : (s.setRemaining n).cpu.irqPending = s.cpu.irqPending := rfl
@[simp] theorem State.setRemaining_halted : (s.setRemaining n).halted = s.halted := rfl
@[simp] theorem State.setRemaining_bus : (s.setRemaining n).bus = s.bus := rfl
@[simp] theorem State.setRemaining_ppu : (s.setRemaining n).ppu = s.ppu := rfl
@[simp] theorem State.setRemaining_cart : (s.setRemaining n).cart = s.cart := rfl
@[simp] theorem State.setRemaining_buttons1 : (s.setRemaining n).buttons1 = s.buttons1 := rfl
@[simp] theorem State.setRemaining_buttons2 : (s.setRemaining n).buttons2 = s.buttons2 := rfl
@[simp] theorem State.setRemaining_systemPalette : (s.setRemaining n).systemPalette = s.systemPalette := rfl

end

section
variable (v : Byte) (s : State)

@[simp] theorem State.setOpenBus_cpu : (s.setOpenBus v).cpu = s.cpu := rfl
@[simp] theorem State.setOpenBus_ram : (s.setOpenBus v).bus.ram = s.bus.ram := rfl
@[simp] theorem State.setOpenBus_openBus : (s.setOpenBus v).bus.openBus = v := rfl
@[simp] theorem State.setOpenBus_strobe : (s.setOpenBus v).bus.strobe = s.bus.strobe := rfl
@[simp] theorem State.setOpenBus_shift1 : (s.setOpenBus v).bus.shift1 = s.bus.shift1 := rfl
@[simp] theorem State.setOpenBus_shift2 : (s.setOpenBus v).bus.shift2 = s.bus.shift2 := rfl
@[simp] theorem State.setOpenBus_dmaRequest : (s.setOpenBus v).bus.dmaRequest = s.bus.dmaRequest := rfl
@[simp] theorem State.setOpenBus_dmaPage : (s.setOpenBus v).bus.dmaPage = s.bus.dmaPage := rfl
@[simp] theorem State.setOpenBus_halted : (s.setOpenBus v).halted = s.halted := rfl
@[simp] theorem State.setOpenBus_ppu : (s.setOpenBus v).ppu = s.ppu := rfl
@[simp] theorem State.setOpenBus_cart : (s.setOpenBus v).cart = s.cart := rfl
@[simp] theorem State.setOpenBus_buttons1 : (s.setOpenBus v).buttons1 = s.buttons1 := rfl
@[simp] theorem State.setOpenBus_buttons2 : (s.setOpenBus v).buttons2 = s.buttons2 := rfl
@[simp] theorem State.setOpenBus_systemPalette : (s.setOpenBus v).systemPalette = s.systemPalette := rfl

end

section
variable {α β γ : Type}

@[simp] theorem Act.bind_ok (a : α) (s : State) (f : α → State → Act β) : (Act.ok a s).bind f = f a s := rfl
@[simp] theorem Act.bind_halt (s : State) (f : α → State → Act β) : (Act.halt s).bind f = .halt s := rfl
@[simp] theorem Act.state_ok (a : α) (s : State) : (Act.ok a s).state = s := rfl
@[simp] theorem Act.state_halt (s : State) : (Act.halt s : Act α).state = s := rfl
@[simp] theorem raise_eq (r : HaltReason) (s : State) : (raise r s : Act α) = .halt { s with halted := some r } := rfl

/-- What a sequence of two operations answers `ok` from. -/
theorem Act.bind_eq_ok (m : Act α) (f : α → State → Act β) (b : β) (t : State) :
    m.bind f = .ok b t ↔ ∃ a s, m = .ok a s ∧ f a s = .ok b t := by
  cases m <;> simp

/-- What a sequence of two operations answers `halt` from. -/
theorem Act.bind_eq_halt (m : Act α) (f : α → State → Act β) (t : State) :
    m.bind f = .halt t ↔ m = .halt t ∨ ∃ a s, m = .ok a s ∧ f a s = .halt t := by
  cases m <;> simp

theorem Act.bind_assoc (m : Act α) (f : α → State → Act β) (g : β → State → Act γ) :
    (m.bind f).bind g = m.bind fun a s => (f a s).bind g := by
  cases m <;> rfl

/-- A relation between the state before and after that the two parts of a sequence keep, the sequence
keeps. -/
theorem Act.bind_keeps (R : State → State → Prop) (trans : ∀ a b c, R a b → R b c → R a c)
    (m : Act α) (f : α → State → Act β) (s : State) (hm : R s m.state)
    (hf : ∀ a t, R t (f a t).state) : R s (m.bind f).state := by
  cases m with
  | ok a t => exact trans s t _ hm (hf a t)
  | halt t => exact hm

end

end Sys2Proof.Machine
end

