-- ==== Sys2Proof/Laws/Bus.lean ====
section
/-! SUPPORT. What a bus access, a push, a pull and an exception entry can do, said once; later proofs cite
these instead of unfolding the bus. And the cell of a PPU address in numbers. -/

namespace Sys2Proof.Machine

/-- Everything a CPU bus read can change: the latch, PPUSTATUS and PPUDATA's side effects, and the
controller shift registers (rule R71); and a halt. -/
structure ReadFrame (s t : State) : Prop where
  cpu : t.cpu = s.cpu
  cart : t.cart = s.cart
  ram : t.bus.ram = s.bus.ram
  dma : t.bus.dmaRequest = s.bus.dmaRequest ∧ t.bus.dmaPage = s.bus.dmaPage
  strobe : t.bus.strobe = s.bus.strobe
  ppu : t.ppu = { s.ppu with vblank := t.ppu.vblank, w := t.ppu.w, readBuffer := t.ppu.readBuffer, v := t.ppu.v }
  host : t.buttons1 = s.buttons1 ∧ t.buttons2 = s.buttons2 ∧ t.systemPalette = s.systemPalette

theorem ReadFrame.refl (s : State) : ReadFrame s s := ⟨rfl, rfl, rfl, ⟨rfl, rfl⟩, rfl, rfl, rfl, rfl, rfl⟩

theorem ReadFrame.trans {a b c : State} (h : ReadFrame a b) (k : ReadFrame b c) : ReadFrame a c where
  cpu := k.cpu.trans h.cpu
  cart := k.cart.trans h.cart
  ram := k.ram.trans h.ram
  dma := ⟨k.dma.1.trans h.dma.1, k.dma.2.trans h.dma.2⟩
  strobe := k.strobe.trans h.strobe
  ppu := by have := k.ppu; rw [h.ppu] at this; exact this
  host := ⟨k.host.1.trans h.host.1, k.host.2.1.trans h.host.2.1, k.host.2.2.trans h.host.2.2⟩

theorem ReadFrame.setOpenBus (v : Byte) (s : State) : ReadFrame s (s.setOpenBus v) :=
  ⟨rfl, rfl, rfl, ⟨rfl, rfl⟩, rfl, rfl, rfl, rfl, rfl⟩

theorem readValue_frame (a : Word) (s : State) :
    ReadFrame s (readValue a s).2 ∧ (readValue a s).2.halted = s.halted := by
  unfold readValue ppuPortRead ioRead
  repeat' split
  all_goals exact ⟨⟨rfl, rfl, rfl, ⟨rfl, rfl⟩, rfl, rfl, rfl, rfl, rfl⟩, rfl⟩

/-- A read either halts with its reason and nothing else changed, or answers the value of `readValue` and
leaves it in the latch. -/
theorem memRead_cases (a : Word) (s : State) :
    (∃ r, readHalt a s = some r ∧ memRead a s = .halt { s with halted := some r }) ∨
    (readHalt a s = none ∧
      memRead a s = .ok (readValue a s).1 ((readValue a s).2.setOpenBus (readValue a s).1)) := by
  unfold memRead
  split
  · next r h => exact .inl ⟨r, h, rfl⟩
  · next h => exact .inr ⟨h, rfl⟩

theorem memRead_frame (a : Word) (s : State) : ReadFrame s (memRead a s).state := by
  rcases memRead_cases a s with ⟨r, -, h⟩ | ⟨-, h⟩ <;> rw [h]
  · exact ⟨rfl, rfl, rfl, ⟨rfl, rfl⟩, rfl, rfl, rfl, rfl, rfl⟩
  · exact (readValue_frame a s).1.trans (ReadFrame.setOpenBus _ _)

theorem memRead_frame_ok {a : Word} {s t : State} {v : Byte} (h : memRead a s = .ok v t) : ReadFrame s t := by
  have := memRead_frame a s
  rwa [h] at this

theorem memRead_frame_halt {a : Word} {s t : State} (h : memRead a s = .halt t) : ReadFrame s t := by
  have := memRead_frame a s
  rwa [h] at this

/-- A completed read leaves the halted bit. -/
theorem memRead_ok_halted {a : Word} {s t : State} {v : Byte} (h : memRead a s = .ok v t) :
    t.halted = s.halted := by
  rcases memRead_cases a s with ⟨r, -, h'⟩ | ⟨-, h'⟩ <;> rw [h] at h'
  · cases h'
  · injection h' with h1 h2
    rw [h2]
    exact (readValue_frame a s).2

/-- A read that halts changes nothing else. -/
theorem memRead_halt_eq {a : Word} {s t : State} (h : memRead a s = .halt t) :
    ∃ r, readHalt a s = some r ∧ t = { s with halted := some r } := by
  rcases memRead_cases a s with ⟨r, hr, h'⟩ | ⟨-, h'⟩ <;> rw [h] at h'
  · injection h' with h1
    exact ⟨r, hr, h1⟩
  · cases h'

@[simp] theorem ramIndex_lt (a : Word) : ramIndex a < 0x800 := (a.extractLsb' 0 11).isLt

theorem ramIndex_eq (a : Word) : ramIndex a = a.toNat % 0x800 := by
  simp [ramIndex, BitVec.extractLsb'_toNat]

theorem memRead_ram {a : Word} (s : State) (h : a.toNat < 0x2000) :
    memRead a s = .ok (readCell s.bus.ram (ramIndex a)) (s.setOpenBus (readCell s.bus.ram (ramIndex a))) := by
  have h1 : readHalt a s = none := by
    have h2 : ¬ (0x4018 ≤ a.toNat) := by omega
    have h3 : ¬ (0x4020 ≤ a.toNat) := by omega
    simp [readHalt, inTestMode, h2, h3]
  simp [memRead, h1, readValue, h]

theorem memWrite_ram {a : Word} (v : Byte) (s : State) (h : a.toNat < 0x2000) :
    memWrite a v s = .ok () { s with
      bus := { s.bus with ram := writeCell s.bus.ram (ramIndex a) v, openBus := v } } := by
  simp [memWrite, writeValue, h, State.setOpenBus]

/-- A read of PRG-ROM never halts. -/
theorem memRead_rom {a : Word} (s : State) (h : 0x8000 ≤ a.toNat) :
    memRead a s = .ok (peek a s) (s.setOpenBus (peek a s)) := by
  have h1 : ¬ a.toNat < 0x2000 := by omega
  have h2 : ¬ a.toNat < 0x4000 := by omega
  have h3 : ¬ a.toNat ≤ 0x4017 := by omega
  have h4 : ¬ a.toNat ≤ 0x401F := by omega
  have h5 : ¬ a.toNat < 0x6000 := by omega
  have h6 : ¬ a.toNat < 0x8000 := by omega
  simp [memRead, readHalt, inTestMode, readValue, cartReadCpu, peek, h, h1, h2, h3, h4, h5, h6]

/-- A write to the PPU ports is `ppuPortWrite` after the latch. -/
theorem memWrite_port {a : Word} (v : Byte) (s : State) (h : 0x2000 ≤ a.toNat) (h' : a.toNat < 0x4000) :
    memWrite a v s = ppuPortWrite (portOf a) v (s.setOpenBus v) := by
  have h1 : ¬ a.toNat < 0x2000 := by omega
  simp [memWrite, writeValue, h1, h']

/-- A write to `$4000` to `$4017` is `ioWrite` after the latch. -/
theorem memWrite_io {a : Word} (v : Byte) (s : State) (h : 0x4000 ≤ a.toNat) (h' : a.toNat ≤ 0x4017) :
    memWrite a v s = .ok () (ioWrite a v (s.setOpenBus v)) := by
  have h1 : ¬ a.toNat < 0x2000 := by omega
  have h2 : ¬ a.toNat < 0x4000 := by omega
  simp [memWrite, writeValue, h1, h2, h']

/-- A write at `$8000` and above is the mapper's register rule after the latch. -/
theorem memWrite_mapper {a : Word} (v : Byte) (s : State) (h : 0x8000 ≤ a.toNat) :
    memWrite a v s = .ok () { s with
      bus := { s.bus with openBus := v }
      cart := mapperWrite a v s.cart } := by
  have h1 : ¬ a.toNat < 0x2000 := by omega
  have h2 : ¬ a.toNat < 0x4000 := by omega
  have h3 : ¬ a.toNat ≤ 0x4017 := by omega
  have h4 : ¬ a.toNat ≤ 0x401F := by omega
  have h5 : ¬ a.toNat < 0x6000 := by omega
  have h6 : ¬ a.toNat < 0x8000 := by omega
  simp [memWrite, writeValue, cartWriteCpu, State.setOpenBus, h1, h2, h3, h4, h5, h6]

/-- A read of plain storage answers its byte. -/
theorem memRead_backed {a : Word} {s : State} (h : backed a s = true) :
    memRead a s = .ok (peek a s) (s.setOpenBus (peek a s)) := by
  by_cases h8 : 0x8000 ≤ a.toNat
  · exact memRead_rom s h8
  by_cases h2 : a.toNat < 0x2000
  · rw [memRead_ram s h2]; simp [peek, h2]
  have hw : inPrgRamWindow a = true ∧ prgRamCapable s.cart.mapper.id = true := by
    simpa [backed, h2, h8] using h
  have h6 : 0x6000 ≤ a.toNat := by
    have := hw.1; simp [inPrgRamWindow] at this; exact this.1
  have k1 : ¬ a.toNat < 0x4000 := by omega
  have k2 : ¬ a.toNat ≤ 0x4017 := by omega
  have k3 : ¬ a.toNat ≤ 0x401F := by omega
  have k4 : ¬ a.toNat < 0x6000 := by omega
  have k5 : a.toNat < 0x8000 := by omega
  simp [memRead, readHalt, inTestMode, readValue, cartReadCpu, peek, h2, h8, hw.1, hw.2, k1, k2, k3, k4, k5]

@[simp] theorem stackAddr_toNat (sp : Byte) : (stackAddr sp).toNat = 256 + sp.toNat := by
  have h := sp.isLt
  unfold stackAddr wordOf
  rw [BitVec.toNat_append, Nat.shiftLeft_eq, Nat.mul_comm, ← Nat.two_pow_add_eq_or_of_lt h]
  rfl

theorem ramIndex_stackAddr (sp : Byte) : ramIndex (stackAddr sp) = 256 + sp.toNat := by
  have := sp.isLt
  rw [ramIndex_eq, stackAddr_toNat]; omega

/-- A push is a RAM write and never halts. -/
theorem push_eq (v : Byte) (s : State) :
    push v s = .ok () { s with
      bus := { s.bus with ram := writeCell s.bus.ram (256 + s.cpu.sp.toNat) v, openBus := v }
      cpu := { s.cpu with sp := s.cpu.sp - 1 } } := by
  have h : (stackAddr s.cpu.sp).toNat < 0x2000 := by
    have := s.cpu.sp.isLt; rw [stackAddr_toNat]; omega
  simp [push, memWrite_ram v s h, ramIndex_stackAddr, State.setSp]

/-- A pull is a RAM read and never halts. -/
theorem pull_eq (s : State) :
    pull s = .ok (readCell s.bus.ram (256 + (s.cpu.sp + 1).toNat)) { s with
      bus := { s.bus with openBus := readCell s.bus.ram (256 + (s.cpu.sp + 1).toNat) }
      cpu := { s.cpu with sp := s.cpu.sp + 1 } } := by
  have h : (stackAddr (s.cpu.sp + 1)).toNat < 0x2000 := by
    have := (s.cpu.sp + 1).isLt; rw [stackAddr_toNat]; omega
  have hr := memRead_ram (s.setSp (s.cpu.sp + 1)) h
  rw [ramIndex_stackAddr] at hr
  exact hr

theorem push16_eq (a : Word) (s : State) :
    push16 a s = .ok () { s with
      bus := { s.bus with
        ram := writeCell (writeCell s.bus.ram (256 + s.cpu.sp.toNat) (hiByte a))
          (256 + (s.cpu.sp - 1).toNat) (loByte a)
        openBus := loByte a }
      cpu := { s.cpu with sp := s.cpu.sp - 1 - 1 } } := by
  simp [push16, push_eq]

theorem pull16_eq (s : State) :
    pull16 s = .ok (wordOf (readCell s.bus.ram (256 + (s.cpu.sp + 1).toNat))
        (readCell s.bus.ram (256 + (s.cpu.sp + 1 + 1).toNat))) { s with
      bus := { s.bus with openBus := readCell s.bus.ram (256 + (s.cpu.sp + 1 + 1).toNat) }
      cpu := { s.cpu with sp := s.cpu.sp + 1 + 1 } } := by
  simp [pull16, pull_eq]

theorem add_one_toNat {a : Word} (h : a.toNat < 0xFFFF) : (a + 1).toNat = a.toNat + 1 := by
  rw [BitVec.toNat_add]
  exact Nat.mod_eq_of_lt (by change a.toNat + 1 < 65536; omega)

/-- The byte in PRG-ROM depends on the cartridge alone. -/
theorem peek_rom {a : Word} {s t : State} (h : 0x8000 ≤ a.toNat) (hc : t.cart = s.cart) :
    peek a t = peek a s := by
  have h1 : ¬ a.toNat < 0x2000 := by omega
  simp only [peek, h1, h, if_true, if_false, hc]

/-- A vector read is a PRG-ROM read and never halts. -/
theorem read16_vector {a : Word} (s : State) (h : 0x8000 ≤ a.toNat) (h' : a.toNat < 0xFFFF) :
    read16 a s = .ok (vectorAt a s) (s.setOpenBus (peek (a + 1) s)) := by
  have h1 := add_one_toNat h'
  unfold read16
  rw [memRead_rom s h, Act.bind_ok, memRead_rom _ (by omega : 0x8000 ≤ (a + 1).toNat), Act.bind_ok,
    peek_rom (s := s) (by omega) rfl]
  rfl

/-- An exception entry through a vector in PRG-ROM never halts, and this is all it does. -/
theorem enterException_eq (vector ret : Word) (status : Byte) (s : State) (h : 0x8000 ≤ vector.toNat)
    (h' : vector.toNat < 0xFFFF) :
    enterException vector ret status s = .ok () { s with
      bus := { s.bus with
        ram := writeCell (writeCell (writeCell s.bus.ram (256 + s.cpu.sp.toNat) (hiByte ret))
          (256 + (s.cpu.sp - 1).toNat) (loByte ret)) (256 + (s.cpu.sp - 1 - 1).toNat) status
        openBus := peek (vector + 1) s }
      cpu := { s.cpu with
        sp := s.cpu.sp - 1 - 1 - 1, p := withFlag maskI true s.cpu.p, pc := vectorAt vector s } } := by
  have h1 := add_one_toNat h'
  have key : ∀ t : State, t.cart = s.cart →
      read16 vector t = .ok (vectorAt vector s) (t.setOpenBus (peek (vector + 1) s)) := fun t ht => by
    rw [read16_vector t h h', peek_rom (by omega) ht]
    unfold vectorAt
    rw [peek_rom h ht, peek_rom (by omega) ht]
  unfold enterException
  rw [push16_eq, Act.bind_ok, push_eq, Act.bind_ok, key]
  · rfl
  · rfl

/-- The two bits of a pattern row, as a number. -/
theorem patternBits_toNat (lo hi : Byte) (b : Nat) :
    (patternBits lo hi b).toNat = 2 * (hi.toNat / 2 ^ b % 2) + lo.toNat / 2 ^ b % 2 := by
  have bit (v : Byte) : v.getLsbD b = decide (v.toNat / 2 ^ b % 2 = 1) := by
    rw [BitVec.getLsbD, Nat.testBit_eq_decide_div_mod_eq]
  have hl := Nat.mod_two_eq_zero_or_one (lo.toNat / 2 ^ b)
  have hh := Nat.mod_two_eq_zero_or_one (hi.toNat / 2 ^ b)
  unfold patternBits
  rw [bit lo, bit hi]
  rcases hl with hl | hl <;> rcases hh with hh | hh <;> rw [hl, hh] <;> rfl

theorem patternValue_lt (s : State) (a k : Nat) : patternValue s a k < 4 := by
  unfold patternValue ppuBit
  omega

theorem spriteNumber_lt (s : State) (px line i : Nat) : spriteNumber s px line i < 4 := by
  unfold spriteNumber
  extract_lets x y tile attr h
  split
  · exact patternValue_lt _ _ _
  · decide

theorem backgroundNumbers_lt (s : State) (px : Nat) :
    (backgroundNumbers s px).1 < 4 ∧ (backgroundNumbers s px).2 < 4 := by
  unfold backgroundNumbers
  simp only
  split
  · decide
  · exact ⟨patternValue_lt _ _ _, Nat.mod_lt _ (by decide)⟩

/-- The palette cell of an address, in numbers (rule R83). -/
theorem palIndex_eq (a : PpuAddr) :
    palIndex a = if a.toNat % 32 ∈ [0x10, 0x14, 0x18, 0x1C] then a.toNat % 32 - 0x10 else a.toNat % 32 := by
  have all : ∀ i : BitVec 5, (if i &&& 0x13 = 0x10 then i - 0x10 else i).toNat =
      if i.toNat ∈ [0x10, 0x14, 0x18, 0x1C] then i.toNat - 0x10 else i.toNat := by decide
  have low : (a.extractLsb' 0 5).toNat = a.toNat % 32 := by simp [BitVec.extractLsb'_toNat]
  rw [← low]
  exact all _

/-- The nametable cell of an address in quadrant `q`, in numbers (rule R81). -/
theorem ntIndex_eq (c : Cart) {a : PpuAddr} {q : Fin 4} (h : a.toNat / 0x400 % 4 = q.val) :
    ntIndex c a = c.ntOffset[q] + a.toNat % 0x400 := by
  have hq : (a.extractLsb' 10 2).toFin = q := by
    apply Fin.ext
    simpa [BitVec.extractLsb'_toNat, Nat.shiftRight_eq_div_pow] using h
  simp only [ntIndex, hq, BitVec.extractLsb'_toNat, Nat.shiftRight_zero]

/-- The CHR cell of an address in window `k`, in numbers (rule R344). -/
theorem chrOffset_eq (c : Cart) {a : PpuAddr} {k : Fin 8} (h : a.toNat / 0x400 = k.val) :
    chrOffset c a = c.chrOff[k] + a.toNat % 0x400 := by
  have hk : (a.extractLsb' 10 3).toFin = k := by
    apply Fin.ext
    have := k.isLt
    simp only [BitVec.val_toFin, BitVec.extractLsb'_toNat, Nat.shiftRight_eq_div_pow]
    omega
  simp only [chrOffset, hk, BitVec.extractLsb'_toNat, Nat.shiftRight_zero]

end Sys2Proof.Machine
end

