-- ==== Sys2Proof/Laws/Cartridge.lean ====
section
/-! SUPPORT. What a cartridge operation can change: the bank helpers and the mapper writes touch only the
bank offsets, the mirroring and the mapper's registers, keep `MAPPER_ID`, and keep every offset legal. -/

namespace Sys2Proof.Machine

/-- Everything a bank switch can change. -/
structure BankFrame (c d : Cart) : Prop where
  rest : d = { c with mirroring := d.mirroring, ntOffset := d.ntOffset, prgOff := d.prgOff, chrOff := d.chrOff, mapper := d.mapper }
  id : d.mapper.id = c.mapper.id

theorem BankFrame.refl (c : Cart) : BankFrame c c := ⟨rfl, rfl⟩

theorem BankFrame.trans {a b c : Cart} (h : BankFrame a b) (k : BankFrame b c) : BankFrame a c where
  rest := by have := k.rest; rw [h.rest] at this; exact this
  id := k.id.trans h.id

theorem BankFrame.prgUnits {c d : Cart} (h : BankFrame c d) : d.prgUnits = c.prgUnits := by rw [h.rest]
theorem BankFrame.chrUnits {c d : Cart} (h : BankFrame c d) : d.chrUnits = c.chrUnits := by rw [h.rest]
theorem BankFrame.prgRom {c d : Cart} (h : BankFrame c d) : d.prgRom = c.prgRom := by rw [h.rest]
theorem BankFrame.prgRam {c d : Cart} (h : BankFrame c d) : d.prgRam = c.prgRam := by rw [h.rest]
theorem BankFrame.chr {c d : Cart} (h : BankFrame c d) : d.chr = c.chr := by rw [h.rest]
theorem BankFrame.ntRam {c d : Cart} (h : BankFrame c d) : d.ntRam = c.ntRam := by rw [h.rest]

/-- The part of `BankInv` about the sizes and the offsets. -/
structure OffsetsOk (c : Cart) : Prop where
  units : 0 < c.prgUnits
  prg : ∀ i : Fin 4, c.prgOff[i] + 8192 ≤ prgSize c ∧ c.prgOff[i] % 8192 = 0
  chr : ∀ i : Fin 8, c.chrOff[i] + 1024 ≤ chrSize c ∧ c.chrOff[i] % 1024 = 0
  nt : c.ntOffset = mirrorOffsets c.mirroring

theorem bankInv_iff (c : Cart) : BankInv c ↔ OffsetsOk c ∧ shiftCountOk c.mapper :=
  ⟨fun ⟨a, b, d, e, f⟩ => ⟨⟨a, b, d, e⟩, f⟩, fun ⟨⟨a, b, d, e⟩, f⟩ => ⟨a, b, d, e, f⟩⟩

/-- `d` comes from `c` by bank helpers alone: their frame, that they keep the offsets legal, and that they
leave the mapper's registers. -/
structure BankRel (c d : Cart) : Prop where
  frame : BankFrame c d
  ok : OffsetsOk c → OffsetsOk d
  mapper : d.mapper = c.mapper

theorem BankRel.refl (c : Cart) : BankRel c c := ⟨BankFrame.refl c, id, rfl⟩

theorem prgBankOffset_ok (c : Cart) (b : Int) (h : 0 < c.prgUnits) :
    prgBankOffset c b + 8192 ≤ prgSize c ∧ prgBankOffset c b % 8192 = 0 := by
  have hs : prgSize c / 8192 = 2 * c.prgUnits := by unfold prgSize; omega
  have hn : (0 : Int) < ((prgSize c / 8192 : Nat) : Int) := by omega
  have h1 := Int.emod_nonneg b (Int.ne_of_gt hn)
  have h2 := Int.emod_lt_of_pos b hn
  unfold prgBankOffset
  have h3 : prgSize c = c.prgUnits * 16384 := rfl
  omega

theorem chrBankOffset_ok (c : Cart) (b : Nat) :
    chrBankOffset c b + 1024 ≤ chrSize c ∧ chrBankOffset c b % 1024 = 0 := by
  have hs : chrSize c / 1024 = 8 * max c.chrUnits 1 := by unfold chrSize; omega
  have h2 := Nat.mod_lt b (show 0 < chrSize c / 1024 by omega)
  unfold chrBankOffset
  have h3 : chrSize c = max c.chrUnits 1 * 8192 := rfl
  omega

section
variable {c d : Cart}

theorem BankRel.setPrg8 (slot : Fin 4) (b : Int) (h : BankRel c d) : BankRel c (setPrg8 slot b d) := by
  refine ⟨h.frame.trans ⟨rfl, rfl⟩, fun hc => ?_, h.mapper⟩
  have hd := h.ok hc
  refine ⟨hd.units, fun i => ?_, hd.chr, hd.nt⟩
  have hp := prgBankOffset_ok d b hd.units
  simp only [Machine.setPrg8, Fin.getElem_fin, Vector.getElem_set]
  split
  · exact hp
  · exact hd.prg i

theorem BankRel.setChr1 (slot : Fin 8) (b : Nat) (h : BankRel c d) : BankRel c (setChr1 slot b d) := by
  refine ⟨h.frame.trans ⟨rfl, rfl⟩, fun hc => ?_, h.mapper⟩
  have hd := h.ok hc
  refine ⟨hd.units, hd.prg, fun i => ?_, hd.nt⟩
  have hp := chrBankOffset_ok d b
  simp only [Machine.setChr1, Fin.getElem_fin, Vector.getElem_set]
  split
  · exact hp
  · exact hd.chr i

theorem BankRel.setMirroring (m : Mirroring) (h : BankRel c d) : BankRel c (setMirroring m d) :=
  ⟨h.frame.trans ⟨rfl, rfl⟩, fun hc => ⟨(h.ok hc).units, (h.ok hc).prg, (h.ok hc).chr, rfl⟩, h.mapper⟩

theorem BankRel.setPrg16 (half : Fin 2) (b : Int) (h : BankRel c d) : BankRel c (setPrg16 half b d) :=
  (h.setPrg8 _ _).setPrg8 _ _

theorem BankRel.setPrg32 (b : Int) (h : BankRel c d) : BankRel c (setPrg32 b d) :=
  (h.setPrg16 _ _).setPrg16 _ _

theorem BankRel.setChr2 (pair : Fin 4) (b : Nat) (h : BankRel c d) : BankRel c (setChr2 pair b d) :=
  (h.setChr1 _ _).setChr1 _ _

theorem BankRel.setChr4 (half : Fin 2) (b : Nat) (h : BankRel c d) : BankRel c (setChr4 half b d) :=
  (h.setChr2 _ _).setChr2 _ _

theorem BankRel.setChr8 (b : Nat) (h : BankRel c d) : BankRel c (setChr8 b d) := (h.setChr4 _ _).setChr4 _ _

theorem BankRel.setPrgBanks001 (r : Mapper001) (h : BankRel c d) : BankRel c (setPrgBanks001 r d) := by
  unfold Machine.setPrgBanks001
  dsimp only
  split
  · exact (h.setPrg16 _ _).setPrg16 _ _
  · split <;> exact (h.setPrg16 _ _).setPrg16 _ _

theorem BankRel.setChrBanks001 (r : Mapper001) (h : BankRel c d) : BankRel c (setChrBanks001 r d) := by
  unfold Machine.setChrBanks001
  dsimp only
  split <;> exact (h.setChr4 _ _).setChr4 _ _

theorem BankRel.updateBanks004 (r : Mapper004) (h : BankRel c d) : BankRel c (updateBanks004 r d) := by
  have prg : BankRel c
      (if r.bankSelect.getLsbD 6 then
        Machine.setPrg8 3 (-1) (Machine.setPrg8 2 (r.bankReg[(6 : Fin 8)]).toNat
          (Machine.setPrg8 1 (r.bankReg[(7 : Fin 8)]).toNat (Machine.setPrg8 0 (-2) d)))
      else Machine.setPrg8 3 (-1) (Machine.setPrg8 2 (-2)
          (Machine.setPrg8 1 (r.bankReg[(7 : Fin 8)]).toNat (Machine.setPrg8 0 (r.bankReg[(6 : Fin 8)]).toNat d)))) := by
    split <;> exact (((h.setPrg8 _ _).setPrg8 _ _).setPrg8 _ _).setPrg8 _ _
  unfold Machine.updateBanks004
  dsimp only
  by_cases h7 : r.bankSelect.getLsbD 7 = true
  · rw [if_pos h7]
    exact (((((prg.setChr1 _ _).setChr1 _ _).setChr1 _ _).setChr1 _ _).setChr2 _ _).setChr2 _ _
  · rw [if_neg h7]
    exact (((((prg.setChr2 _ _).setChr2 _ _).setChr1 _ _).setChr1 _ _).setChr1 _ _).setChr1 _ _

end

/-- Replacing the mapper's registers keeps the offsets. -/
theorem offsetsOk_mapper {c : Cart} (m : Mapper) (h : OffsetsOk c) : OffsetsOk { c with mapper := m } :=
  ⟨h.units, h.prg, h.chr, h.nt⟩

/-- A change of the mapper's registers followed by bank helpers. -/
theorem bankRel_write {c d : Cart} {m : Mapper} (hm : m.id = c.mapper.id)
    (hs : shiftCountOk c.mapper → shiftCountOk m) (h : BankRel { c with mapper := m } d) :
    BankFrame c d ∧ (BankInv c → BankInv d) := by
  refine ⟨BankFrame.trans ⟨rfl, hm⟩ h.frame, fun hc => ?_⟩
  rw [bankInv_iff] at hc ⊢
  rw [h.mapper]
  exact ⟨h.ok (offsetsOk_mapper m hc.1), hs hc.2⟩

/-- Whatever a mapper write does, it is a bank switch that keeps the bank invariant. -/
theorem mapperWrite_frame (a : Word) (v : Byte) (c : Cart) :
    BankFrame c (mapperWrite a v c) ∧ (BankInv c → BankInv (mapperWrite a v c)) := by
  have start : ∀ m : Mapper, BankRel { c with mapper := m } { c with mapper := m } := fun m => BankRel.refl _
  unfold mapperWrite
  split
  · exact ⟨BankFrame.refl c, id⟩
  · next r hr =>
    have hid : ∀ q, (Mapper.m001 q).id = c.mapper.id := fun q => by rw [hr]; rfl
    unfold write001
    split
    · exact bankRel_write (hid _) (fun _ => Nat.zero_le _) (start _)
    · dsimp only
      split
      · unfold apply001
        dsimp only
        split
        · exact bankRel_write (hid _) (fun _ => Nat.zero_le _)
            ((((start _).setMirroring _).setPrgBanks001 _).setChrBanks001 _)
        · split
          · exact bankRel_write (hid _) (fun _ => Nat.zero_le _) ((start _).setChrBanks001 _)
          · split
            · exact bankRel_write (hid _) (fun _ => Nat.zero_le _) ((start _).setChrBanks001 _)
            · exact bankRel_write (hid _) (fun _ => Nat.zero_le _) ((start _).setPrgBanks001 _)
      · next h5 =>
        refine bankRel_write (hid _) (fun h => ?_) (start _)
        rw [hr] at h
        simp only [shiftCountOk] at h ⊢
        omega
  · next l hl => exact bankRel_write (m := .m002 v) (by rw [hl]; rfl) (fun _ => trivial) ((start _).setPrg16 _ _)
  · next l hl => exact bankRel_write (m := .m003 v) (by rw [hl]; rfl) (fun _ => trivial) ((start _).setChr8 _)
  · next r hr =>
    have hid : ∀ q, (Mapper.m004 q).id = c.mapper.id := fun q => by rw [hr]; rfl
    unfold write004
    dsimp only
    split
    · exact bankRel_write (hid _) (fun _ => trivial) ((start _).updateBanks004 _)
    · split
      · split
        · exact ⟨BankFrame.refl c, id⟩
        · have h := (BankRel.refl c).setMirroring (if v.getLsbD 0 = true then .horizontal else .vertical)
          refine ⟨h.frame, fun hc => ?_⟩
          rw [bankInv_iff] at hc ⊢
          exact ⟨h.ok hc.1, hc.2⟩
      · split <;> exact bankRel_write (hid _) (fun _ => trivial) (start _)
  · next l hl =>
    exact bankRel_write (m := .m007 v) (by rw [hl]; rfl) (fun _ => trivial) (((start _).setPrg32 _).setMirroring _)
  · next l hl => exact bankRel_write (m := .m011 v) (by rw [hl]; rfl) (fun _ => trivial) (((start _).setPrg32 _).setChr8 _)
  · next l hl => exact bankRel_write (m := .m066 v) (by rw [hl]; rfl) (fun _ => trivial) (((start _).setPrg32 _).setChr8 _)

/-- The hook of rule R375 changes only the counter and the reload flag of mapper 004. -/
theorem scanlineIrq_frame (c : Cart) :
    BankFrame c (scanlineIrq c).2 ∧ (scanlineIrq c).2 = { c with mapper := (scanlineIrq c).2.mapper } ∧
      (BankInv c → BankInv (scanlineIrq c).2) := by
  unfold scanlineIrq
  split
  · next r hr =>
    refine ⟨⟨rfl, by rw [hr]; rfl⟩, rfl, fun h => ?_⟩
    rw [bankInv_iff] at h ⊢
    exact ⟨offsetsOk_mapper _ h.1, trivial⟩
  · exact ⟨BankFrame.refl c, rfl, id⟩

/-- A write on the CPU side changes PRG-RAM, or is a mapper write. -/
theorem cartWriteCpu_cases {c d : Cart} {a : Word} {v : Byte} (h : cartWriteCpu c a v = some d) :
    d = c ∨ (0x6000 ≤ a.toNat ∧ a.toNat < 0x8000 ∧ d = { c with prgRam := writeCell c.prgRam (a.toNat - 0x6000) v }) ∨
      (0x8000 ≤ a.toNat ∧ d = mapperWrite a v c) := by
  unfold cartWriteCpu at h
  split at h
  · injection h with h; exact .inl h.symm
  · split at h
    · split at h
      · injection h with h; exact .inr (.inl ⟨by omega, by omega, h.symm⟩)
      · cases h
    · injection h with h; exact .inr (.inr ⟨by omega, h.symm⟩)

end Sys2Proof.Machine
end

