-- ==== Sys2Proof/Laws/Exec.lean ====
section
/-! SUPPORT. The spec lemmas of running one instruction: the row an instruction finds, what `complete` and
`operate` answer, what the operand can be, and what a read-modify-write does with it. -/

namespace Sys2Proof.Machine

@[simp] theorem complete_ok (base extra : Nat) (s : State) :
    complete base (.ok extra s) = .next (s.setRemaining (base + extra)) := rfl

@[simp] theorem complete_halt (base : Nat) (s : State) : complete base (.halt s) = .next s := rfl

@[simp] theorem noExtra_ok (s : State) : noExtra (.ok () s) = .ok 0 s := rfl

@[simp] theorem noExtra_halt (s : State) : noExtra (.halt s) = .halt s := rfl

/-- An instruction completes or halts: it always answers a next state. -/
theorem complete_next (base : Nat) (m : Act Nat) : ∃ t, complete base m = .next t := by
  cases m <;> exact ⟨_, rfl⟩

/-- A row found is a row of the map, for the mnemonic and mode asked. -/
theorem rowFor_spec {mn : Mnemonic} {m : Mode} {row : Row} (h : rowFor mn m = some row) :
    row ∈ opcodeTable ∧ row.mnemonic = mn ∧ row.mode = m := by
  have h1 := List.find?_some h
  have h2 := List.mem_of_find?_eq_some h
  simpa [h2] using h1

/-- What running an operation on an operand comes to, where the map has a row. -/
theorem operate_row {mn : Mnemonic} {o : Operand} {row : Row} (h : rowFor mn o.mode = some row)
    (f : Ref → State → Act Nat) (s : State) :
    operate mn o f s = complete row.baseCycles
      ((address row.pagePenalty o s).bind fun re s =>
        (f re.1 s).bind fun more s => .ok (re.2 + more) s) := by
  simp only [operate, h]

/-- The one-byte instructions in Implied mode: no address, no added cycles but the operation's. -/
theorem operate_implied {mn : Mnemonic} {row : Row} (h : rowFor mn .implied = some row)
    (f : Ref → State → Act Nat) (s : State) :
    operate mn .implied f s = complete row.baseCycles ((f .none s).bind fun more s => .ok (0 + more) s) :=
  operate_row h f s

/-- The modes with their own next state: only a pointer mode touches the bus. -/
theorem address_frame (p : Bool) (o : Operand) (s : State) : ReadFrame s (address p o s).state := by
  have two : ∀ (a b : Word) (f : Byte → Byte → State → Act (Ref × Nat)),
      (∀ x y t, ReadFrame t (f x y t).state) →
      ReadFrame s ((memRead a s).bind fun lo s => (memRead b s).bind fun hi s => f lo hi s).state := by
    intro a b f hf
    refine Act.bind_keeps ReadFrame (fun _ _ _ => ReadFrame.trans) _ _ _ (memRead_frame a s) fun lo t => ?_
    exact Act.bind_keeps ReadFrame (fun _ _ _ => ReadFrame.trans) _ _ _ (memRead_frame b t) fun hi u => hf lo hi u
  cases o with
  | indirect q =>
    simp only [address, readIndirectPointer, Act.bind_assoc, Act.bind_ok]
    exact two _ _ _ fun _ _ t => ReadFrame.refl t
  | indirectX z =>
    simp only [address, readZeroPagePointer, Act.bind_assoc, Act.bind_ok]
    exact two _ _ _ fun _ _ t => ReadFrame.refl t
  | indirectY z =>
    simp only [address, readZeroPagePointer, Act.bind_assoc, Act.bind_ok]
    exact two _ _ _ fun _ _ t => ReadFrame.refl t
  | _ => exact ReadFrame.refl s

theorem readRef_frame (r : Ref) (s : State) : ReadFrame s (readRef r s).state := by
  cases r with
  | memory a => exact memRead_frame a s
  | none => exact ⟨rfl, rfl, rfl, ⟨rfl, rfl⟩, rfl, rfl, rfl, rfl, rfl⟩
  | _ => exact ReadFrame.refl s

/-- Reading an operand changes what reads can change. -/
theorem operandByte_frame (p : Bool) (o : Operand) (s : State) : ReadFrame s (operandByte p o s).state := by
  refine Act.bind_keeps ReadFrame (fun _ _ _ => ReadFrame.trans) _ _ _ (address_frame p o s) fun re t => ?_
  exact Act.bind_keeps ReadFrame (fun _ _ _ => ReadFrame.trans) _ _ _ (readRef_frame re.1 t) fun m u =>
    ReadFrame.refl u

theorem operandByte_ok_cpu {p : Bool} {o : Operand} {s t : State} {m : Byte} {e : Nat}
    (h : operandByte p o s = .ok (m, e) t) : t.cpu = s.cpu := by
  have := (operandByte_frame p o s).cpu
  rwa [h] at this

theorem address_ok_cpu {p : Bool} {o : Operand} {s t : State} {r : Ref} {e : Nat}
    (h : address p o s = .ok (r, e) t) : t.cpu = s.cpu := by
  have := (address_frame p o s).cpu
  rwa [h] at this

/-- An operation that starts by reading its operand byte, in terms of that byte. -/
theorem operate_read {mn : Mnemonic} {o : Operand} {row : Row} (h : rowFor mn o.mode = some row)
    (f : Byte → State → Act Nat) (s : State) :
    operate mn o (fun r s => (readRef r s).bind f) s = complete row.baseCycles
      ((operandByte row.pagePenalty o s).bind fun me s =>
        (f me.1 s).bind fun more s => .ok (me.2 + more) s) := by
  rw [operate_row h]
  simp only [operandByte, Act.bind_assoc, Act.bind_ok]

/-- A mode that charges no page penalty adds no cycle. -/
theorem address_no_penalty {o : Operand} {s t : State} {r : Ref} {e : Nat}
    (h : address false o s = .ok (r, e) t) : e = 0 := by
  cases o <;> simp [address, pageExtra, readIndirectPointer, readZeroPagePointer, Act.bind_eq_ok] at h <;>
    grind

/-- INC and DEC on memory, once the operand is read: the write, then `P`. -/
theorem modifyOperand_memory {a : Word} {m : Byte} {s s' : State} (h : memRead a s = .ok m s')
    (f : Byte → Byte → Byte × Byte) :
    modifyOperand f (.memory a) s = (memWrite a (f m s'.cpu.p).1 s').bind fun _ t =>
      .ok 0 (t.setP (f m s'.cpu.p).2) := by
  simp only [modifyOperand, readRef, writeRef, noExtra, h, Act.bind_ok, Act.bind_assoc]

/-- A shift on memory, once the operand is read: `P`, then the write. -/
theorem shiftOperand_memory {a : Word} {m : Byte} {s s' : State} (h : memRead a s = .ok m s')
    (f : Byte → Byte → Byte × Byte) :
    shiftOperand f (.memory a) s =
      (memWrite a (f m s'.cpu.p).1 (s'.setP (f m s'.cpu.p).2)).bind fun _ t => .ok 0 t := by
  simp only [shiftOperand, readRef, writeRef, noExtra, h, Act.bind_ok]

@[simp] theorem shiftOperand_accumulator (f : Byte → Byte → Byte × Byte) (s : State) :
    shiftOperand f .accumulator s =
      .ok 0 ((s.setP (f s.cpu.a s.cpu.p).2).setA (f s.cpu.a s.cpu.p).1) := rfl

theorem modifyOperand_halt {a : Word} {s t : State} (h : memRead a s = .halt t)
    (f : Byte → Byte → Byte × Byte) : modifyOperand f (.memory a) s = .halt t := by
  simp only [modifyOperand, readRef, h, Act.bind_halt]

theorem shiftOperand_halt {a : Word} {s t : State} (h : memRead a s = .halt t)
    (f : Byte → Byte → Byte × Byte) : shiftOperand f (.memory a) s = .halt t := by
  simp only [shiftOperand, readRef, h, Act.bind_halt]

end Sys2Proof.Machine
end

