-- ==== Sys2Proof/Laws/PerInstr.lean ====
section
/-! SUPPORT. The per-instruction family Encoding: a well-formed instruction has one, two or three bytes
(rule R110), as many as its mode says (rule R112). -/

namespace Sys2Proof.Laws.Encoding

/-- A well-formed instruction's bytes are an opcode byte and the operand bytes of its mode. -/
def Statement (i : Instr) : Prop :=
  wellFormed i = true →
    (encode i).length = 1 + (match i.shape with | some (_, o) => operandLength o.mode | none => 0) ∧
    (encode i).length ≤ 3

theorem operandBytes_length (o : Operand) : (operandBytes o).length = operandLength o.mode := by
  cases o <;> rfl

theorem operandLength_le (m : Mode) : operandLength m ≤ 2 := by cases m <;> decide

/-- The map has a row for every allowed mode of each mnemonic (rule R114). -/
theorem allowed_have_rows (mn : Mnemonic) :
    (allowedModes mn).all (fun m => (rowFor mn m).isSome) = true := by cases mn <;> decide

theorem rowFor_isSome {mn : Mnemonic} {m : Mode} (h : (allowedModes mn).contains m = true) :
    (rowFor mn m).isSome = true :=
  List.all_eq_true.mp (allowed_have_rows mn) m (List.contains_iff_mem.mp h)

/-- The statement for an instruction with a mnemonic and an operand. -/
theorem of_shape {i : Instr} {mn : Mnemonic} {o : Operand} (hs : i.shape = some (mn, o))
    (hw : wellFormed i = (allowedModes mn).contains o.mode)
    (he : encode i = match rowFor mn o.mode with
      | some r => r.opcode :: operandBytes o
      | none => []) : Statement i := by
  intro h
  obtain ⟨r, hr⟩ := Option.isSome_iff_exists.mp (rowFor_isSome (hw ▸ h))
  rw [he, hr, hs]
  have := operandLength_le o.mode
  simp only [List.length_cons, operandBytes_length]
  omega

theorem lda (src : Operand) : Statement (.lda src) := of_shape rfl rfl rfl
theorem ldx (src : Operand) : Statement (.ldx src) := of_shape rfl rfl rfl
theorem ldy (src : Operand) : Statement (.ldy src) := of_shape rfl rfl rfl
theorem sta (dst : Operand) : Statement (.sta dst) := of_shape rfl rfl rfl
theorem stx (dst : Operand) : Statement (.stx dst) := of_shape rfl rfl rfl
theorem sty (dst : Operand) : Statement (.sty dst) := of_shape rfl rfl rfl
theorem tax : Statement .tax := of_shape rfl rfl rfl
theorem tay : Statement .tay := of_shape rfl rfl rfl
theorem txa : Statement .txa := of_shape rfl rfl rfl
theorem tya : Statement .tya := of_shape rfl rfl rfl
theorem tsx : Statement .tsx := of_shape rfl rfl rfl
theorem txs : Statement .txs := of_shape rfl rfl rfl
theorem pha : Statement .pha := of_shape rfl rfl rfl
theorem php : Statement .php := of_shape rfl rfl rfl
theorem pla : Statement .pla := of_shape rfl rfl rfl
theorem plp : Statement .plp := of_shape rfl rfl rfl
theorem adc (src : Operand) : Statement (.adc src) := of_shape rfl rfl rfl
theorem sbc (src : Operand) : Statement (.sbc src) := of_shape rfl rfl rfl
theorem cmp (src : Operand) : Statement (.cmp src) := of_shape rfl rfl rfl
theorem cpx (src : Operand) : Statement (.cpx src) := of_shape rfl rfl rfl
theorem cpy (src : Operand) : Statement (.cpy src) := of_shape rfl rfl rfl
theorem inc (dst : Operand) : Statement (.inc dst) := of_shape rfl rfl rfl
theorem inx : Statement .inx := of_shape rfl rfl rfl
theorem iny : Statement .iny := of_shape rfl rfl rfl
theorem dec (dst : Operand) : Statement (.dec dst) := of_shape rfl rfl rfl
theorem dex : Statement .dex := of_shape rfl rfl rfl
theorem dey : Statement .dey := of_shape rfl rfl rfl
theorem and (src : Operand) : Statement (.and src) := of_shape rfl rfl rfl
theorem ora (src : Operand) : Statement (.ora src) := of_shape rfl rfl rfl
theorem eor (src : Operand) : Statement (.eor src) := of_shape rfl rfl rfl
theorem bit (src : Operand) : Statement (.bit src) := of_shape rfl rfl rfl
theorem asl (dst : Operand) : Statement (.asl dst) := of_shape rfl rfl rfl
theorem lsr (dst : Operand) : Statement (.lsr dst) := of_shape rfl rfl rfl
theorem rol (dst : Operand) : Statement (.rol dst) := of_shape rfl rfl rfl
theorem ror (dst : Operand) : Statement (.ror dst) := of_shape rfl rfl rfl
theorem bcc (offset : Byte) : Statement (.bcc offset) := of_shape rfl rfl rfl
theorem bcs (offset : Byte) : Statement (.bcs offset) := of_shape rfl rfl rfl
theorem beq (offset : Byte) : Statement (.beq offset) := of_shape rfl rfl rfl
theorem bne (offset : Byte) : Statement (.bne offset) := of_shape rfl rfl rfl
theorem bmi (offset : Byte) : Statement (.bmi offset) := of_shape rfl rfl rfl
theorem bpl (offset : Byte) : Statement (.bpl offset) := of_shape rfl rfl rfl
theorem bvc (offset : Byte) : Statement (.bvc offset) := of_shape rfl rfl rfl
theorem bvs (offset : Byte) : Statement (.bvs offset) := of_shape rfl rfl rfl
theorem jmp (target : Operand) : Statement (.jmp target) := of_shape rfl rfl rfl
theorem jsr (target : Word) : Statement (.jsr target) := of_shape rfl rfl rfl
theorem rts : Statement .rts := of_shape rfl rfl rfl
theorem clc : Statement .clc := of_shape rfl rfl rfl
theorem sec : Statement .sec := of_shape rfl rfl rfl
theorem cli : Statement .cli := of_shape rfl rfl rfl
theorem sei : Statement .sei := of_shape rfl rfl rfl
theorem clv : Statement .clv := of_shape rfl rfl rfl
theorem cld : Statement .cld := of_shape rfl rfl rfl
theorem sed : Statement .sed := of_shape rfl rfl rfl
theorem nop : Statement .nop := of_shape rfl rfl rfl
theorem brk : Statement .brk := of_shape rfl rfl rfl
theorem rti : Statement .rti := of_shape rfl rfl rfl
theorem illegal (opcode : Byte) : Statement (.illegal opcode) := fun _ => ⟨rfl, by simp [encode]⟩

end Sys2Proof.Laws.Encoding
end

