-- ==== Sys2Proof/Laws/Writes.lean ====
section
/-! SUPPORT. What a bus write can change, and which byte of memory it can change. -/

namespace Sys2Proof.Machine

/-- Everything a cartridge write can change. -/
structure CartFrame (c d : Cart) : Prop where
  rest : d = { c with mirroring := d.mirroring, prgRam := d.prgRam, chr := d.chr, ntRam := d.ntRam, ntOffset := d.ntOffset, prgOff := d.prgOff, chrOff := d.chrOff, mapper := d.mapper }
  id : d.mapper.id = c.mapper.id

theorem CartFrame.refl (c : Cart) : CartFrame c c := ⟨rfl, rfl⟩

theorem CartFrame.trans {a b c : Cart} (h : CartFrame a b) (k : CartFrame b c) : CartFrame a c where
  rest := by have := k.rest; rw [h.rest] at this; exact this
  id := k.id.trans h.id

theorem BankFrame.toCart {c d : Cart} (h : BankFrame c d) : CartFrame c d :=
  ⟨by have := h.rest; rw [this], h.id⟩

/-- Everything a CPU bus write can change: not a CPU register, a host input, the render position, secondary
OAM, a sprite flag, a pixel or a constant of the cartridge. -/
structure WriteFrame (s t : State) : Prop where
  cpu : t.cpu = s.cpu
  host : t.buttons1 = s.buttons1 ∧ t.buttons2 = s.buttons2 ∧ t.systemPalette = s.systemPalette
  ppu : t.ppu = { s.ppu with palette := t.ppu.palette, v := t.ppu.v, t := t.ppu.t, x := t.ppu.x, w := t.ppu.w, ctrl := t.ppu.ctrl, mask := t.ppu.mask, oamAddr := t.ppu.oamAddr, oam := t.ppu.oam, vblank := t.ppu.vblank, readBuffer := t.ppu.readBuffer }
  cart : CartFrame s.cart t.cart

theorem WriteFrame.refl (s : State) : WriteFrame s s := ⟨rfl, ⟨rfl, rfl, rfl⟩, rfl, CartFrame.refl _⟩

theorem WriteFrame.trans {a b c : State} (h : WriteFrame a b) (k : WriteFrame b c) : WriteFrame a c where
  cpu := k.cpu.trans h.cpu
  host := ⟨k.host.1.trans h.host.1, k.host.2.1.trans h.host.2.1, k.host.2.2.trans h.host.2.2⟩
  ppu := by have := k.ppu; rw [h.ppu] at this; exact this
  cart := h.cart.trans k.cart

theorem ReadFrame.toWrite {s t : State} (h : ReadFrame s t) : WriteFrame s t where
  cpu := h.cpu
  host := h.host
  ppu := by rw [h.ppu]
  cart := by rw [h.cart]; exact CartFrame.refl _

theorem writeFrame_raise (r : HaltReason) (s : State) : WriteFrame s { s with halted := some r } :=
  ⟨rfl, ⟨rfl, rfl, rfl⟩, rfl, CartFrame.refl _⟩

theorem ppuWrite_frame (a : PpuAddr) (v : Byte) (s : State) : WriteFrame s (ppuWrite a v s).state := by
  unfold ppuWrite
  split
  · unfold cartWritePpu
    split
    · next c h =>
      split at h
      · injection h with h; subst h
        exact ⟨rfl, ⟨rfl, rfl, rfl⟩, rfl, ⟨rfl, rfl⟩⟩
      · cases h
    · exact writeFrame_raise _ s
  · split
    · exact ⟨rfl, ⟨rfl, rfl, rfl⟩, rfl, ⟨rfl, rfl⟩⟩
    · exact ⟨rfl, ⟨rfl, rfl, rfl⟩, rfl, ⟨rfl, rfl⟩⟩

theorem ppuPortWrite_frame (port : BitVec 3) (v : Byte) (s : State) :
    WriteFrame s (ppuPortWrite port v s).state := by
  unfold ppuPortWrite writeScroll writeAddr
  repeat' split
  all_goals first
    | exact ⟨rfl, ⟨rfl, rfl, rfl⟩, rfl, CartFrame.refl _⟩
    | refine Act.bind_keeps WriteFrame (fun _ _ _ => WriteFrame.trans) _ _ s (ppuWrite_frame _ v s) fun _ t => ?_
      exact ⟨rfl, ⟨rfl, rfl, rfl⟩, rfl, CartFrame.refl _⟩

theorem cartWriteCpu_frame {c d : Cart} {a : Word} {v : Byte} (h : cartWriteCpu c a v = some d) :
    CartFrame c d := by
  rcases cartWriteCpu_cases h with h | ⟨-, -, h⟩ | ⟨-, h⟩ <;> subst h
  · exact CartFrame.refl _
  · exact ⟨rfl, rfl⟩
  · exact (mapperWrite_frame a v c).1.toCart

theorem writeValue_frame (a : Word) (v : Byte) (s : State) : WriteFrame s (writeValue a v s).state := by
  unfold writeValue
  split
  · exact ⟨rfl, ⟨rfl, rfl, rfl⟩, rfl, CartFrame.refl _⟩
  · split
    · exact ppuPortWrite_frame _ v s
    · split
      · unfold ioWrite writeStrobe
        repeat' split
        all_goals exact ⟨rfl, ⟨rfl, rfl, rfl⟩, rfl, CartFrame.refl _⟩
      · split
        · exact writeFrame_raise _ s
        · split
          · next c h => exact ⟨rfl, ⟨rfl, rfl, rfl⟩, rfl, cartWriteCpu_frame h⟩
          · exact writeFrame_raise _ s

theorem memWrite_frame (a : Word) (v : Byte) (s : State) : WriteFrame s (memWrite a v s).state :=
  WriteFrame.trans (ReadFrame.setOpenBus v s).toWrite (writeValue_frame a v (s.setOpenBus v))

theorem memWrite_ok_cpu {a : Word} {v : Byte} {s t : State} (h : memWrite a v s = .ok () t) :
    t.cpu = s.cpu := by
  have := (memWrite_frame a v s).cpu
  rwa [h] at this

theorem memWrite_halt_cpu {a : Word} {v : Byte} {s t : State} (h : memWrite a v s = .halt t) :
    t.cpu = s.cpu := by
  have := (memWrite_frame a v s).cpu
  rwa [h] at this

/-- The bytes behind CPU addresses depend on RAM and the cartridge alone. -/
theorem peek_congr {s t : State} (hr : t.bus.ram = s.bus.ram) (hc : t.cart = s.cart) (b : Word) :
    peek b t = peek b s := by
  simp only [peek, hr, hc]

/-- The bytes on the PPU bus depend on the cartridge and the palette alone. -/
theorem ppuRead_congr {s t : State} (hp : t.ppu.palette = s.ppu.palette) (hc : t.cart = s.cart)
    (x : PpuAddr) : ppuRead t x = ppuRead s x := by
  simp only [ppuRead, hp, hc]

theorem ReadFrame.peek {s t : State} (h : ReadFrame s t) (b : Word) : peek b t = peek b s :=
  peek_congr h.ram h.cart b

theorem ReadFrame.ppuRead {s t : State} (h : ReadFrame s t) (x : PpuAddr) : ppuRead t x = ppuRead s x :=
  ppuRead_congr (by rw [h.ppu]) h.cart x

theorem ReadFrame.oam {s t : State} (h : ReadFrame s t) : t.ppu.oam = s.ppu.oam ∧ t.ppu.oamAddr = s.ppu.oamAddr := by
  rw [h.ppu]; exact ⟨rfl, rfl⟩

end Sys2Proof.Machine
end

