-- ==== Sys2Proof/Tests/Slice0.lean ====
section
/-! SUPPORT. The model's own tests: ill-formed terms refused, words of the opcode map written out from rule
R114, one vector per instruction from tables B1 to B16 of 95_test_vectors.md, single steps from reset, and
for every obligation with hypotheses a state and operands that meet them. -/

namespace Sys2Proof.Tests

open Sys2Proof.Machine

/-! ## Well-formedness refuses -/

theorem test_ill_formed_modes :
    wellFormed (.lda .accumulator) = false ∧ wellFormed (.ldx (.zeroPageX 0x10)) = false ∧
    wellFormed (.ldy (.absoluteY 0x1234)) = false ∧ wellFormed (.sta (.immediate 0x01)) = false ∧
    wellFormed (.stx (.absoluteY 0x1234)) = false ∧ wellFormed (.sty (.absoluteX 0x1234)) = false ∧
    wellFormed (.adc (.zeroPageY 0x10)) = false ∧ wellFormed (.cpx (.zeroPageX 0x10)) = false ∧
    wellFormed (.inc .accumulator) = false ∧ wellFormed (.bit (.immediate 0x01)) = false ∧
    wellFormed (.asl .implied) = false ∧ wellFormed (.jmp (.indirectX 0x10)) = false := by decide

theorem test_ill_formed_illegal_byte :
    wellFormed (.illegal 0xEA) = false ∧ wellFormed (.illegal 0x02) = true := by decide

theorem test_decode_refuses_truncated_bytes :
    decode [] = .error .noBytes ∧ decode [0xA9] = .error (.truncated 0xA9) ∧
    decode [0xAD, 0x34] = .error (.truncated 0xAD) := by decide

/-! ## Decoding, from rule R114 -/

/-- Whether every row's bytes decode to its instruction, with nothing left. -/
def decodes (rows : List (List Byte × Instr)) : Bool := rows.all fun r => decode r.1 = .ok (r.2, [])

theorem test_decode_bit_by_bit :
    decode [0b10101001, 0b01000010] = .ok (.lda (.immediate 0x42), []) ∧
    decode [0b01101100, 0b00110100, 0b00010010] = .ok (.jmp (.indirect 0x1234), []) := by decide

theorem test_decode_loads : decodes
    [([0xA9, 0x9C], .lda (.immediate 0x9C)), ([0xA5, 0x9C], .lda (.zeroPage 0x9C)),
     ([0xB5, 0x9C], .lda (.zeroPageX 0x9C)), ([0xAD, 0x34, 0x12], .lda (.absolute 0x1234)),
     ([0xBD, 0x34, 0x12], .lda (.absoluteX 0x1234)), ([0xB9, 0x34, 0x12], .lda (.absoluteY 0x1234)),
     ([0xA1, 0x9C], .lda (.indirectX 0x9C)), ([0xB1, 0x9C], .lda (.indirectY 0x9C)),
     ([0xA2, 0x9C], .ldx (.immediate 0x9C)), ([0xA6, 0x9C], .ldx (.zeroPage 0x9C)),
     ([0xB6, 0x9C], .ldx (.zeroPageY 0x9C)), ([0xAE, 0x34, 0x12], .ldx (.absolute 0x1234)),
     ([0xBE, 0x34, 0x12], .ldx (.absoluteY 0x1234)), ([0xA0, 0x9C], .ldy (.immediate 0x9C)),
     ([0xA4, 0x9C], .ldy (.zeroPage 0x9C)), ([0xB4, 0x9C], .ldy (.zeroPageX 0x9C)),
     ([0xAC, 0x34, 0x12], .ldy (.absolute 0x1234)), ([0xBC, 0x34, 0x12], .ldy (.absoluteX 0x1234))] = true := by decide

theorem test_decode_stores : decodes
    [([0x85, 0x9C], .sta (.zeroPage 0x9C)), ([0x95, 0x9C], .sta (.zeroPageX 0x9C)),
     ([0x8D, 0x34, 0x12], .sta (.absolute 0x1234)), ([0x9D, 0x34, 0x12], .sta (.absoluteX 0x1234)),
     ([0x99, 0x34, 0x12], .sta (.absoluteY 0x1234)), ([0x81, 0x9C], .sta (.indirectX 0x9C)),
     ([0x91, 0x9C], .sta (.indirectY 0x9C)), ([0x86, 0x9C], .stx (.zeroPage 0x9C)),
     ([0x96, 0x9C], .stx (.zeroPageY 0x9C)), ([0x8E, 0x34, 0x12], .stx (.absolute 0x1234)),
     ([0x84, 0x9C], .sty (.zeroPage 0x9C)), ([0x94, 0x9C], .sty (.zeroPageX 0x9C)),
     ([0x8C, 0x34, 0x12], .sty (.absolute 0x1234))] = true := by decide

theorem test_decode_adc_sbc : decodes
    [([0x69, 0x9C], .adc (.immediate 0x9C)), ([0x65, 0x9C], .adc (.zeroPage 0x9C)),
     ([0x75, 0x9C], .adc (.zeroPageX 0x9C)), ([0x6D, 0x34, 0x12], .adc (.absolute 0x1234)),
     ([0x7D, 0x34, 0x12], .adc (.absoluteX 0x1234)), ([0x79, 0x34, 0x12], .adc (.absoluteY 0x1234)),
     ([0x61, 0x9C], .adc (.indirectX 0x9C)), ([0x71, 0x9C], .adc (.indirectY 0x9C)),
     ([0xE9, 0x9C], .sbc (.immediate 0x9C)), ([0xE5, 0x9C], .sbc (.zeroPage 0x9C)),
     ([0xF5, 0x9C], .sbc (.zeroPageX 0x9C)), ([0xED, 0x34, 0x12], .sbc (.absolute 0x1234)),
     ([0xFD, 0x34, 0x12], .sbc (.absoluteX 0x1234)), ([0xF9, 0x34, 0x12], .sbc (.absoluteY 0x1234)),
     ([0xE1, 0x9C], .sbc (.indirectX 0x9C)), ([0xF1, 0x9C], .sbc (.indirectY 0x9C))] = true := by decide

theorem test_decode_compares : decodes
    [([0xC9, 0x9C], .cmp (.immediate 0x9C)), ([0xC5, 0x9C], .cmp (.zeroPage 0x9C)),
     ([0xD5, 0x9C], .cmp (.zeroPageX 0x9C)), ([0xCD, 0x34, 0x12], .cmp (.absolute 0x1234)),
     ([0xDD, 0x34, 0x12], .cmp (.absoluteX 0x1234)), ([0xD9, 0x34, 0x12], .cmp (.absoluteY 0x1234)),
     ([0xC1, 0x9C], .cmp (.indirectX 0x9C)), ([0xD1, 0x9C], .cmp (.indirectY 0x9C)),
     ([0xE0, 0x9C], .cpx (.immediate 0x9C)), ([0xE4, 0x9C], .cpx (.zeroPage 0x9C)),
     ([0xEC, 0x34, 0x12], .cpx (.absolute 0x1234)), ([0xC0, 0x9C], .cpy (.immediate 0x9C)),
     ([0xC4, 0x9C], .cpy (.zeroPage 0x9C)), ([0xCC, 0x34, 0x12], .cpy (.absolute 0x1234))] = true := by decide

theorem test_decode_increments : decodes
    [([0xE6, 0x9C], .inc (.zeroPage 0x9C)), ([0xF6, 0x9C], .inc (.zeroPageX 0x9C)),
     ([0xEE, 0x34, 0x12], .inc (.absolute 0x1234)), ([0xFE, 0x34, 0x12], .inc (.absoluteX 0x1234)),
     ([0xC6, 0x9C], .dec (.zeroPage 0x9C)), ([0xD6, 0x9C], .dec (.zeroPageX 0x9C)),
     ([0xCE, 0x34, 0x12], .dec (.absolute 0x1234)), ([0xDE, 0x34, 0x12], .dec (.absoluteX 0x1234))] = true := by decide

theorem test_decode_logic : decodes
    [([0x29, 0x9C], .and (.immediate 0x9C)), ([0x25, 0x9C], .and (.zeroPage 0x9C)),
     ([0x35, 0x9C], .and (.zeroPageX 0x9C)), ([0x2D, 0x34, 0x12], .and (.absolute 0x1234)),
     ([0x3D, 0x34, 0x12], .and (.absoluteX 0x1234)), ([0x39, 0x34, 0x12], .and (.absoluteY 0x1234)),
     ([0x21, 0x9C], .and (.indirectX 0x9C)), ([0x31, 0x9C], .and (.indirectY 0x9C)),
     ([0x09, 0x9C], .ora (.immediate 0x9C)), ([0x05, 0x9C], .ora (.zeroPage 0x9C)),
     ([0x15, 0x9C], .ora (.zeroPageX 0x9C)), ([0x0D, 0x34, 0x12], .ora (.absolute 0x1234)),
     ([0x1D, 0x34, 0x12], .ora (.absoluteX 0x1234)), ([0x19, 0x34, 0x12], .ora (.absoluteY 0x1234)),
     ([0x01, 0x9C], .ora (.indirectX 0x9C)), ([0x11, 0x9C], .ora (.indirectY 0x9C)),
     ([0x49, 0x9C], .eor (.immediate 0x9C)), ([0x45, 0x9C], .eor (.zeroPage 0x9C)),
     ([0x55, 0x9C], .eor (.zeroPageX 0x9C)), ([0x4D, 0x34, 0x12], .eor (.absolute 0x1234)),
     ([0x5D, 0x34, 0x12], .eor (.absoluteX 0x1234)), ([0x59, 0x34, 0x12], .eor (.absoluteY 0x1234)),
     ([0x41, 0x9C], .eor (.indirectX 0x9C)), ([0x51, 0x9C], .eor (.indirectY 0x9C)),
     ([0x24, 0x9C], .bit (.zeroPage 0x9C)), ([0x2C, 0x34, 0x12], .bit (.absolute 0x1234))] = true := by decide

theorem test_decode_shifts : decodes
    [([0x0A], .asl .accumulator), ([0x06, 0x9C], .asl (.zeroPage 0x9C)),
     ([0x16, 0x9C], .asl (.zeroPageX 0x9C)), ([0x0E, 0x34, 0x12], .asl (.absolute 0x1234)),
     ([0x1E, 0x34, 0x12], .asl (.absoluteX 0x1234)), ([0x4A], .lsr .accumulator),
     ([0x46, 0x9C], .lsr (.zeroPage 0x9C)), ([0x56, 0x9C], .lsr (.zeroPageX 0x9C)),
     ([0x4E, 0x34, 0x12], .lsr (.absolute 0x1234)), ([0x5E, 0x34, 0x12], .lsr (.absoluteX 0x1234)),
     ([0x2A], .rol .accumulator), ([0x26, 0x9C], .rol (.zeroPage 0x9C)),
     ([0x36, 0x9C], .rol (.zeroPageX 0x9C)), ([0x2E, 0x34, 0x12], .rol (.absolute 0x1234)),
     ([0x3E, 0x34, 0x12], .rol (.absoluteX 0x1234)), ([0x6A], .ror .accumulator),
     ([0x66, 0x9C], .ror (.zeroPage 0x9C)), ([0x76, 0x9C], .ror (.zeroPageX 0x9C)),
     ([0x6E, 0x34, 0x12], .ror (.absolute 0x1234)), ([0x7E, 0x34, 0x12], .ror (.absoluteX 0x1234))] = true := by decide

theorem test_decode_branches : decodes
    [([0x10, 0xFE], .bpl 0xFE), ([0x30, 0xFE], .bmi 0xFE),
     ([0x50, 0xFE], .bvc 0xFE), ([0x70, 0xFE], .bvs 0xFE),
     ([0x90, 0xFE], .bcc 0xFE), ([0xB0, 0xFE], .bcs 0xFE),
     ([0xD0, 0xFE], .bne 0xFE), ([0xF0, 0xFE], .beq 0xFE)] = true := by decide

theorem test_decode_jumps : decodes
    [([0x4C, 0x34, 0x12], .jmp (.absolute 0x1234)), ([0x6C, 0x34, 0x12], .jmp (.indirect 0x1234)),
     ([0x20, 0x34, 0x12], .jsr 0x1234)] = true := by decide

theorem test_decode_implied : decodes
    [([0xAA], .tax), ([0xA8], .tay), ([0x8A], .txa), ([0x98], .tya), ([0xBA], .tsx),
     ([0x9A], .txs), ([0x48], .pha), ([0x08], .php), ([0x68], .pla), ([0x28], .plp),
     ([0xE8], .inx), ([0xC8], .iny), ([0xCA], .dex), ([0x88], .dey), ([0x60], .rts),
     ([0x18], .clc), ([0x38], .sec), ([0x58], .cli), ([0x78], .sei), ([0xB8], .clv),
     ([0xD8], .cld), ([0xF8], .sed), ([0xEA], .nop), ([0x00], .brk), ([0x40], .rti)] = true := by decide

/-! ## One vector per instruction, from 95_test_vectors.md -/

/-- The registers a vector shows. -/
structure Regs where
  a  : Byte
  x  : Byte
  y  : Byte
  sp : Byte
  p  : Byte
  pc : Word
  deriving DecidableEq, Repr

/-- A machine at an instruction boundary with these registers and cells. -/
def atBoundary (bytes : List Byte) (r : Regs) (cells : List (Word × Byte)) : State :=
  let s := cells.foldl (fun s c => poke c.1 c.2 s) (pokeBytes r.pc bytes State.reset)
  { s with cpu := { s.cpu with
      a := r.a, x := r.x, y := r.y, sp := r.sp, p := r.p, pc := r.pc, remainingCycles := 0 } }

/-- One instruction: the registers after it, its cycles, and the bytes at some addresses. -/
def vector (bytes : List Byte) (r : Regs) (cells : List (Word × Byte)) (look : List Word) :
    Option (Regs × Nat × List Byte) :=
  match tick (atBoundary bytes r cells) with
  | .next t =>
    some (⟨t.cpu.a, t.cpu.x, t.cpu.y, t.cpu.sp, t.cpu.p, t.cpu.pc⟩, t.cpu.remainingCycles + 1,
      look.map fun a => peek a t)
  | _ => none

/-- Table B1, `A1 20`. -/
theorem test_lda : vector [0xA1, 0x20] ⟨0x00, 0xDF, 0x00, 0xFD, 0x24, 0x8000⟩
    [(0x0000, 0x02), (0x00FF, 0x34), (0x0234, 0xC3)] [] =
    some (⟨0xC3, 0xDF, 0x00, 0xFD, 0xA4, 0x8002⟩, 6, []) := by decide

/-- Table B1, `B1 FF`. -/
theorem test_lda_second : vector [0xB1, 0xFF] ⟨0x00, 0x00, 0x01, 0xFD, 0x24, 0x8000⟩
    [(0x0000, 0x05), (0x00FF, 0x00), (0x0100, 0xEE), (0x0501, 0x77)] [] =
    some (⟨0x77, 0x00, 0x01, 0xFD, 0x24, 0x8002⟩, 5, []) := by decide

/-- Table B1, `B6 10`. -/
theorem test_ldx : vector [0xB6, 0x10] ⟨0x00, 0x00, 0xF8, 0xFD, 0x24, 0x8000⟩
    [(0x0008, 0x81)] [] =
    some (⟨0x00, 0x81, 0xF8, 0xFD, 0xA4, 0x8002⟩, 4, []) := by decide

/-- Table B1, `BC FF 03`. -/
theorem test_ldy : vector [0xBC, 0xFF, 0x03] ⟨0x00, 0x01, 0x00, 0xFD, 0x24, 0x8000⟩
    [(0x0400, 0x00)] [] =
    some (⟨0x00, 0x01, 0x00, 0xFD, 0x26, 0x8003⟩, 5, []) := by decide

/-- Table B2, `91 40`. -/
theorem test_sta : vector [0x91, 0x40] ⟨0x22, 0x00, 0xFF, 0xFD, 0x24, 0x8000⟩
    [(0x0040, 0x01), (0x0041, 0x02)] [0x0300] =
    some (⟨0x22, 0x00, 0xFF, 0xFD, 0x24, 0x8002⟩, 6, [0x22]) := by decide

/-- Table B2, `95 F0`. -/
theorem test_sta_second : vector [0x95, 0xF0] ⟨0x31, 0x11, 0x00, 0xFD, 0x24, 0x8000⟩
    [] [0x0001] =
    some (⟨0x31, 0x11, 0x00, 0xFD, 0x24, 0x8002⟩, 4, [0x31]) := by decide

/-- Table B2, `96 10`. -/
theorem test_stx : vector [0x96, 0x10] ⟨0x00, 0x66, 0xF1, 0xFD, 0x24, 0x8000⟩
    [] [0x0001] =
    some (⟨0x00, 0x66, 0xF1, 0xFD, 0x24, 0x8002⟩, 4, [0x66]) := by decide

/-- Table B2, `8C 00 60`. -/
theorem test_sty : vector [0x8C, 0x00, 0x60] ⟨0x00, 0x00, 0x02, 0xFD, 0x24, 0x8000⟩
    [] [0x6000] =
    some (⟨0x00, 0x00, 0x02, 0xFD, 0x24, 0x8003⟩, 4, [0x02]) := by decide

/-- Table B3, `AA`. -/
theorem test_tax : vector [0xAA] ⟨0x80, 0x01, 0x00, 0xFD, 0x24, 0x8000⟩
    [] [] =
    some (⟨0x80, 0x80, 0x00, 0xFD, 0xA4, 0x8001⟩, 2, []) := by decide

/-- Table B3, `A8`. -/
theorem test_tay : vector [0xA8] ⟨0x00, 0x00, 0x01, 0xFD, 0x24, 0x8000⟩
    [] [] =
    some (⟨0x00, 0x00, 0x00, 0xFD, 0x26, 0x8001⟩, 2, []) := by decide

/-- Table B3, `8A`. -/
theorem test_txa : vector [0x8A] ⟨0x00, 0x7F, 0x00, 0xFD, 0x24, 0x8000⟩
    [] [] =
    some (⟨0x7F, 0x7F, 0x00, 0xFD, 0x24, 0x8001⟩, 2, []) := by decide

/-- Table B3, `98`. -/
theorem test_tya : vector [0x98] ⟨0x00, 0x00, 0xFF, 0xFD, 0x24, 0x8000⟩
    [] [] =
    some (⟨0xFF, 0x00, 0xFF, 0xFD, 0xA4, 0x8001⟩, 2, []) := by decide

/-- Table B3, `BA`. -/
theorem test_tsx : vector [0xBA] ⟨0x00, 0x05, 0x00, 0x00, 0x24, 0x8000⟩
    [] [] =
    some (⟨0x00, 0x00, 0x00, 0x00, 0x26, 0x8001⟩, 2, []) := by decide

/-- Table B3, `9A`. -/
theorem test_txs : vector [0x9A] ⟨0x00, 0x00, 0x00, 0xFD, 0xA4, 0x8000⟩
    [] [] =
    some (⟨0x00, 0x00, 0x00, 0x00, 0xA4, 0x8001⟩, 2, []) := by decide

/-- Table B4, `48`. -/
theorem test_pha : vector [0x48] ⟨0x01, 0x00, 0x00, 0x00, 0x24, 0x8000⟩
    [] [0x0100] =
    some (⟨0x01, 0x00, 0x00, 0xFF, 0x24, 0x8001⟩, 3, [0x01]) := by decide

/-- Table B4, `08`. -/
theorem test_php : vector [0x08] ⟨0x00, 0x00, 0x00, 0xFD, 0xE5, 0x8000⟩
    [] [0x01FD] =
    some (⟨0x00, 0x00, 0x00, 0xFC, 0xE5, 0x8001⟩, 3, [0xF5]) := by decide

/-- Table B4, `68`. -/
theorem test_pla : vector [0x68] ⟨0x01, 0x00, 0x00, 0xFF, 0x24, 0x8000⟩
    [(0x0100, 0x00)] [] =
    some (⟨0x00, 0x00, 0x00, 0x00, 0x26, 0x8001⟩, 4, []) := by decide

/-- Table B4, `28`. -/
theorem test_plp : vector [0x28] ⟨0x00, 0x00, 0x00, 0xFC, 0x24, 0x8000⟩
    [(0x01FD, 0xFF)] [] =
    some (⟨0x00, 0x00, 0x00, 0xFD, 0xEF, 0x8001⟩, 4, []) := by decide

/-- Table B5, `71 10`. -/
theorem test_adc : vector [0x71, 0x10] ⟨0x01, 0x00, 0x01, 0xFD, 0x25, 0x8000⟩
    [(0x0010, 0xFF), (0x0011, 0x02), (0x0300, 0x7F)] [] =
    some (⟨0x81, 0x00, 0x01, 0xFD, 0xE4, 0x8002⟩, 6, []) := by decide

/-- Table B6, `7D FF 00`. -/
theorem test_adc_second : vector [0x7D, 0xFF, 0x00] ⟨0x25, 0x01, 0x00, 0xFD, 0x2C, 0x8000⟩
    [(0x0100, 0x48)] [] =
    some (⟨0x73, 0x01, 0x00, 0xFD, 0x2C, 0x8003⟩, 6, []) := by decide

/-- Table B7, `E9 01`. -/
theorem test_sbc : vector [0xE9, 0x01] ⟨0x80, 0x00, 0x00, 0xFD, 0x25, 0x8000⟩
    [] [] =
    some (⟨0x7F, 0x00, 0x00, 0xFD, 0x65, 0x8002⟩, 2, []) := by decide

/-- Table B8, `E9 21`. -/
theorem test_sbc_second : vector [0xE9, 0x21] ⟨0x12, 0x00, 0x00, 0xFD, 0x2D, 0x8000⟩
    [] [] =
    some (⟨0x91, 0x00, 0x00, 0xFD, 0xAC, 0x8002⟩, 3, []) := by decide

/-- Table B9, `C9 01`. -/
theorem test_cmp : vector [0xC9, 0x01] ⟨0x81, 0x00, 0x00, 0xFD, 0x24, 0x8000⟩
    [] [] =
    some (⟨0x81, 0x00, 0x00, 0xFD, 0xA5, 0x8002⟩, 2, []) := by decide

/-- Table B9, `E4 10`. -/
theorem test_cpx : vector [0xE4, 0x10] ⟨0x00, 0x00, 0x00, 0xFD, 0x24, 0x8000⟩
    [(0x0010, 0x01)] [] =
    some (⟨0x00, 0x00, 0x00, 0xFD, 0xA4, 0x8002⟩, 3, []) := by decide

/-- Table B9, `CC 00 02`. -/
theorem test_cpy : vector [0xCC, 0x00, 0x02] ⟨0x00, 0x00, 0x7F, 0xFD, 0x24, 0x8000⟩
    [(0x0200, 0x80)] [] =
    some (⟨0x00, 0x00, 0x7F, 0xFD, 0xA4, 0x8003⟩, 4, []) := by decide

/-- Table B10, `FE FF 02`. -/
theorem test_inc : vector [0xFE, 0xFF, 0x02] ⟨0x00, 0x01, 0x00, 0xFD, 0x24, 0x8000⟩
    [(0x0300, 0x00)] [0x0300] =
    some (⟨0x00, 0x01, 0x00, 0xFD, 0x24, 0x8003⟩, 7, [0x01]) := by decide

/-- Table B10, `E8`. -/
theorem test_inx : vector [0xE8] ⟨0x00, 0xFF, 0x00, 0xFD, 0x24, 0x8000⟩
    [] [] =
    some (⟨0x00, 0x00, 0x00, 0xFD, 0x26, 0x8001⟩, 2, []) := by decide

/-- Table B10, `C8`. -/
theorem test_iny : vector [0xC8] ⟨0x00, 0x00, 0xFE, 0xFD, 0x24, 0x8000⟩
    [] [] =
    some (⟨0x00, 0x00, 0xFF, 0xFD, 0xA4, 0x8001⟩, 2, []) := by decide

/-- Table B10, `D6 10`. -/
theorem test_dec : vector [0xD6, 0x10] ⟨0x00, 0xFF, 0x00, 0xFD, 0x24, 0x8000⟩
    [(0x000F, 0x01)] [0x000F] =
    some (⟨0x00, 0xFF, 0x00, 0xFD, 0x26, 0x8002⟩, 6, [0x00]) := by decide

/-- Table B10, `CA`. -/
theorem test_dex : vector [0xCA] ⟨0x00, 0x00, 0x00, 0xFD, 0x24, 0x8000⟩
    [] [] =
    some (⟨0x00, 0xFF, 0x00, 0xFD, 0xA4, 0x8001⟩, 2, []) := by decide

/-- Table B10, `88`. -/
theorem test_dey : vector [0x88] ⟨0x00, 0x00, 0x80, 0xFD, 0x24, 0x8000⟩
    [] [] =
    some (⟨0x00, 0x00, 0x7F, 0xFD, 0x24, 0x8001⟩, 2, []) := by decide

/-- Table B11, `29 F0`. -/
theorem test_and : vector [0x29, 0xF0] ⟨0x9F, 0x00, 0x00, 0xFD, 0x24, 0x8000⟩
    [] [] =
    some (⟨0x90, 0x00, 0x00, 0xFD, 0xA4, 0x8002⟩, 2, []) := by decide

/-- Table B11, `01 10`. -/
theorem test_ora : vector [0x01, 0x10] ⟨0x0F, 0xF0, 0x00, 0xFD, 0x24, 0x8000⟩
    [(0x0000, 0x00), (0x0001, 0x03), (0x0300, 0x30)] [] =
    some (⟨0x3F, 0xF0, 0x00, 0xFD, 0x24, 0x8002⟩, 6, []) := by decide

/-- Table B11, `59 FF 01`. -/
theorem test_eor : vector [0x59, 0xFF, 0x01] ⟨0x0F, 0x00, 0x01, 0xFD, 0x24, 0x8000⟩
    [(0x0200, 0xF0)] [] =
    some (⟨0xFF, 0x00, 0x01, 0xFD, 0xA4, 0x8003⟩, 5, []) := by decide

/-- Table B11, `24 10`. -/
theorem test_bit : vector [0x24, 0x10] ⟨0x01, 0x00, 0x00, 0xFD, 0x24, 0x8000⟩
    [(0x0010, 0xC0)] [] =
    some (⟨0x01, 0x00, 0x00, 0xFD, 0xE6, 0x8002⟩, 3, []) := by decide

/-- Table B12, `0A`. -/
theorem test_asl : vector [0x0A] ⟨0x41, 0x00, 0x00, 0xFD, 0x25, 0x8000⟩
    [] [] =
    some (⟨0x82, 0x00, 0x00, 0xFD, 0xA4, 0x8001⟩, 2, []) := by decide

/-- Table B12, `1E FF 02`. -/
theorem test_asl_second : vector [0x1E, 0xFF, 0x02] ⟨0x00, 0x01, 0x00, 0xFD, 0x24, 0x8000⟩
    [(0x0300, 0x01)] [0x0300] =
    some (⟨0x00, 0x01, 0x00, 0xFD, 0x24, 0x8003⟩, 7, [0x02]) := by decide

/-- Table B12, `56 10`. -/
theorem test_lsr : vector [0x56, 0x10] ⟨0x00, 0x01, 0x00, 0xFD, 0x24, 0x8000⟩
    [(0x0011, 0xFF)] [0x0011] =
    some (⟨0x00, 0x01, 0x00, 0xFD, 0x25, 0x8002⟩, 6, [0x7F]) := by decide

/-- Table B12, `2A`. -/
theorem test_rol : vector [0x2A] ⟨0x80, 0x00, 0x00, 0xFD, 0x25, 0x8000⟩
    [] [] =
    some (⟨0x01, 0x00, 0x00, 0xFD, 0x25, 0x8001⟩, 2, []) := by decide

/-- Table B12, `7E 00 02`. -/
theorem test_ror : vector [0x7E, 0x00, 0x02] ⟨0x00, 0xFF, 0x00, 0xFD, 0x24, 0x8000⟩
    [(0x02FF, 0x03)] [0x02FF] =
    some (⟨0x00, 0xFF, 0x00, 0xFD, 0x25, 0x8003⟩, 7, [0x01]) := by decide

/-- Table B13, `90 10`. -/
theorem test_bcc : vector [0x90, 0x10] ⟨0x00, 0x00, 0x00, 0xFD, 0x24, 0x80F0⟩
    [] [] =
    some (⟨0x00, 0x00, 0x00, 0xFD, 0x24, 0x8102⟩, 4, []) := by decide

/-- Table B13, `B0 FD`. -/
theorem test_bcs : vector [0xB0, 0xFD] ⟨0x00, 0x00, 0x00, 0xFD, 0x25, 0x8100⟩
    [] [] =
    some (⟨0x00, 0x00, 0x00, 0xFD, 0x25, 0x80FF⟩, 4, []) := by decide

/-- Table B13, `F0 FE`. -/
theorem test_beq : vector [0xF0, 0xFE] ⟨0x00, 0x00, 0x00, 0xFD, 0x26, 0x8000⟩
    [] [] =
    some (⟨0x00, 0x00, 0x00, 0xFD, 0x26, 0x8000⟩, 3, []) := by decide

/-- Table B13, `D0 02`. -/
theorem test_bne : vector [0xD0, 0x02] ⟨0x00, 0x00, 0x00, 0xFD, 0x24, 0xFFFC⟩
    [] [] =
    some (⟨0x00, 0x00, 0x00, 0xFD, 0x24, 0x0000⟩, 4, []) := by decide

/-- Table B13, `30 80`. -/
theorem test_bmi : vector [0x30, 0x80] ⟨0x00, 0x00, 0x00, 0xFD, 0xA4, 0x8080⟩
    [] [] =
    some (⟨0x00, 0x00, 0x00, 0xFD, 0xA4, 0x8002⟩, 3, []) := by decide

/-- Table B13, `10 00`. -/
theorem test_bpl : vector [0x10, 0x00] ⟨0x00, 0x00, 0x00, 0xFD, 0x24, 0x8000⟩
    [] [] =
    some (⟨0x00, 0x00, 0x00, 0xFD, 0x24, 0x8002⟩, 3, []) := by decide

/-- Table B13, `50 04`. -/
theorem test_bvc : vector [0x50, 0x04] ⟨0x00, 0x00, 0x00, 0xFD, 0x64, 0x8000⟩
    [] [] =
    some (⟨0x00, 0x00, 0x00, 0xFD, 0x64, 0x8002⟩, 2, []) := by decide

/-- Table B13, `70 04`. -/
theorem test_bvs : vector [0x70, 0x04] ⟨0x00, 0x00, 0x00, 0xFD, 0x64, 0x8000⟩
    [] [] =
    some (⟨0x00, 0x00, 0x00, 0xFD, 0x64, 0x8006⟩, 3, []) := by decide

/-- Table B14, `4C 34 12`. -/
theorem test_jmp : vector [0x4C, 0x34, 0x12] ⟨0x00, 0x00, 0x00, 0xFD, 0x24, 0x8000⟩
    [] [] =
    some (⟨0x00, 0x00, 0x00, 0xFD, 0x24, 0x1234⟩, 3, []) := by decide

/-- Table B14, `6C FF 02`. -/
theorem test_jmp_second : vector [0x6C, 0xFF, 0x02] ⟨0x00, 0x00, 0x00, 0xFD, 0x24, 0x8000⟩
    [(0x0200, 0x12), (0x02FF, 0x34), (0x0300, 0x56)] [] =
    some (⟨0x00, 0x00, 0x00, 0xFD, 0x24, 0x1234⟩, 5, []) := by decide

/-- Table B14, `20 00 90`. -/
theorem test_jsr : vector [0x20, 0x00, 0x90] ⟨0x00, 0x00, 0x00, 0x00, 0x24, 0x8000⟩
    [] [0x0100, 0x01FF] =
    some (⟨0x00, 0x00, 0x00, 0xFE, 0x24, 0x9000⟩, 6, [0x80, 0x02]) := by decide

/-- Table B14, `60`. -/
theorem test_rts : vector [0x60] ⟨0x00, 0x00, 0x00, 0xFB, 0x24, 0x8000⟩
    [(0x01FC, 0xFF), (0x01FD, 0xFF)] [] =
    some (⟨0x00, 0x00, 0x00, 0xFD, 0x24, 0x0000⟩, 6, []) := by decide

/-- Table B15, `18`. -/
theorem test_clc : vector [0x18] ⟨0x00, 0x00, 0x00, 0xFD, 0xE7, 0x8000⟩
    [] [] =
    some (⟨0x00, 0x00, 0x00, 0xFD, 0xE6, 0x8001⟩, 2, []) := by decide

/-- Table B15, `38`. -/
theorem test_sec : vector [0x38] ⟨0x00, 0x00, 0x00, 0xFD, 0x24, 0x8000⟩
    [] [] =
    some (⟨0x00, 0x00, 0x00, 0xFD, 0x25, 0x8001⟩, 2, []) := by decide

/-- Table B15, `58`. -/
theorem test_cli : vector [0x58] ⟨0x00, 0x00, 0x00, 0xFD, 0x24, 0x8000⟩
    [] [] =
    some (⟨0x00, 0x00, 0x00, 0xFD, 0x20, 0x8001⟩, 2, []) := by decide

/-- Table B15, `78`. -/
theorem test_sei : vector [0x78] ⟨0x00, 0x00, 0x00, 0xFD, 0x20, 0x8000⟩
    [] [] =
    some (⟨0x00, 0x00, 0x00, 0xFD, 0x24, 0x8001⟩, 2, []) := by decide

/-- Table B15, `B8`. -/
theorem test_clv : vector [0xB8] ⟨0x00, 0x00, 0x00, 0xFD, 0xE4, 0x8000⟩
    [] [] =
    some (⟨0x00, 0x00, 0x00, 0xFD, 0xA4, 0x8001⟩, 2, []) := by decide

/-- Table B15, `D8`. -/
theorem test_cld : vector [0xD8] ⟨0x00, 0x00, 0x00, 0xFD, 0x2C, 0x8000⟩
    [] [] =
    some (⟨0x00, 0x00, 0x00, 0xFD, 0x24, 0x8001⟩, 2, []) := by decide

/-- Table B15, `F8`. -/
theorem test_sed : vector [0xF8] ⟨0x00, 0x00, 0x00, 0xFD, 0x24, 0x8000⟩
    [] [] =
    some (⟨0x00, 0x00, 0x00, 0xFD, 0x2C, 0x8001⟩, 2, []) := by decide

/-- Table B15, `EA`. -/
theorem test_nop : vector [0xEA] ⟨0x12, 0x34, 0x56, 0xFD, 0xE5, 0x8000⟩
    [] [] =
    some (⟨0x12, 0x34, 0x56, 0xFD, 0xE5, 0x8001⟩, 2, []) := by decide

/-- Table B16, `00 FF`. -/
theorem test_brk : vector [0x00, 0xFF] ⟨0x00, 0x00, 0x00, 0xFD, 0xE4, 0x8000⟩
    [(0xFFFE, 0x00), (0xFFFF, 0x90)] [0x01FD, 0x01FC, 0x01FB] =
    some (⟨0x00, 0x00, 0x00, 0xFA, 0xE4, 0x9000⟩, 7, [0x80, 0x02, 0xF4]) := by decide

/-- Table B16, `00`. -/
theorem test_brk_second : vector [0x00] ⟨0x00, 0x00, 0x00, 0x01, 0x2C, 0x8000⟩
    [(0xFFFE, 0x34), (0xFFFF, 0x12)] [0x0101, 0x0100, 0x01FF] =
    some (⟨0x00, 0x00, 0x00, 0xFE, 0x2C, 0x1234⟩, 7, [0x80, 0x02, 0x3C]) := by decide

/-- Table B16, `40`. -/
theorem test_rti : vector [0x40] ⟨0x00, 0x00, 0x00, 0xFA, 0x24, 0x8000⟩
    [(0x01FB, 0xF3), (0x01FC, 0x02), (0x01FD, 0x80)] [] =
    some (⟨0x00, 0x00, 0x00, 0xFD, 0xE3, 0x8002⟩, 6, []) := by decide

/-! ## The step from reset, the buses, the mappers -/

theorem test_reset_is_power_on_and_reset : State.reset = hostReset (powerOn resetParameters) := rfl

/-- R47, R48, R401: what the reset tables give. -/
theorem test_reset_fields :
    (State.reset.cpu.sp, State.reset.cpu.p, State.reset.cpu.remainingCycles) = (0xFD, 0x24, 7) ∧
    (State.reset.ppu.renderState, State.reset.ppu.scanline, State.reset.ppu.cycle) =
      (.preRender, 261, 0) := by decide

/-- The register and cycle counters one system step leaves. -/
def stepped (s : State) : Option (Byte × Word × Nat × Nat) :=
  match step s with
  | .next t => some (t.cpu.a, t.cpu.pc, t.cpu.remainingCycles, t.cpu.tickCounter)
  | _ => none

theorem test_step_runs_the_word_placed :
    stepped (State.reset.withFetchWord 16 0x42A9) = some (0x42, 0x0002, 1, 1) := by decide

theorem test_step_burns_the_reset_cycles : stepped State.reset = some (0x00, 0x0000, 6, 1) := by decide

/-- The last value of a list of bus accesses: `some v` writes, none reads. -/
def accesses : List (Word × Option Byte) → State → Option (Byte × State)
  | [], s => some (s.bus.openBus, s)
  | (a, some v) :: rest, s =>
    match memWrite a v s with
    | .ok _ s => accesses rest s
    | .halt _ => none
  | (a, none) :: rest, s =>
    match memRead a s with
    | .ok _ s => accesses rest s
    | .halt _ => none

/-- Section A8. -/
theorem test_open_bus :
    (accesses [(0x2000, some 0x5A), (0x2005, none)] State.reset).map
      (fun r => (r.1, r.2.ppu.ctrl, r.2.ppu.t)) = some (0x5A, 0x5A, 0x0800) := by decide

/-- What one tick leaves of a halted machine: the reason, `PC`, the two counters and the latch. -/
def haltOf (bytes : List Byte) : Option (Option HaltReason × Word × Nat × Nat × Byte) :=
  match tick (atBoundary bytes ⟨0x00, 0x00, 0x00, 0xFD, 0x24, 0x8000⟩ []) with
  | .next t => some (t.halted, t.cpu.pc, t.cpu.remainingCycles, t.cpu.tickCounter, t.bus.openBus)
  | _ => none

/-- Table B17, an IRQ taken at a boundary. -/
theorem test_irq_entry :
    (match tick { atBoundary [] ⟨0x00, 0x00, 0x00, 0xFD, 0xE3, 0x8005⟩
        [(0xFFFE, 0x00), (0xFFFF, 0xA0)] with cpu.irqPending := true } with
      | .next t => some (t.cpu, peek 0x01FD t, peek 0x01FC t, peek 0x01FB t)
      | _ => none) =
    some ({ a := 0x00, x := 0x00, y := 0x00, sp := 0xFA, p := 0xE7, pc := 0xA000, remainingCycles := 6,
            tickCounter := 1, nmiPending := false, irqPending := false }, 0x80, 0x05, 0xE3) := by decide

/-- Table B18, `LDA $4018`. -/
theorem test_halt_on_test_mode_read : haltOf [0xAD, 0x18, 0x40] =
    some (some (.testModeAccess 0x4018 .read), 0x8003, 0, 0, 0x40) := by decide

/-- Table B18, `02`. -/
theorem test_halt_on_illegal_opcode : haltOf [0x02] =
    some (some (.illegalOpcode 0x02 0x8000), 0x8001, 0, 0, 0x02) := by decide

/-- Table B21, the scroll and address ports. -/
theorem test_scroll_and_address_ports :
    (accesses [(0x2000, some 0x03), (0x2005, some 0x7D), (0x2005, some 0x5E)] State.reset).map
      (fun r => (r.2.ppu.t, r.2.ppu.x)) = some (0x6D6F, 5) ∧
    (accesses [(0x2006, some 0x3D), (0x2006, some 0xF0)] State.reset).map
      (fun r => (r.2.ppu.v, r.2.ppu.t)) = some (0x3DF0, 0x3DF0) := by decide

/-- Table B21, the data port: writes, then the one-read delay. -/
theorem test_data_port :
    (accesses [(0x2006, some 0x21), (0x2006, some 0x08), (0x2007, some 0xAB), (0x2007, some 0xCD),
      (0x2006, some 0x21), (0x2006, some 0x08), (0x2007, none), (0x2007, none)] State.reset).map
      (fun r => (r.1, r.2.ppu.v)) = some (0xAB, 0x210A) := by decide

/-- Table B20, the second read with buttons 91 held and the latch at 40. -/
theorem test_controller_port :
    (accesses [(0x4016, some 0x01), (0x4016, some 0x00), (0x4016, none), (0x0000, some 0x40),
      (0x4016, none)] { State.reset with buttons1 := 0x91 }).map (fun r => (r.1, r.2.bus.shift1)) =
      some (0x40, 0xE4) := by decide

/-- Table B22. -/
theorem test_scroll_helpers :
    incrementX 0x001F = 0x0400 ∧ incrementY 0x73A0 = 0x0800 ∧ incrementY 0x73E0 = 0x0000 ∧
    copyHorizontal 0x0000 0x7FFF = 0x041F ∧ copyVertical 0x0000 0x7FFF = 0x7BE0 := by decide

/-- A loaded cartridge of a mapper and its unit counts. -/
def cartOf (id : MapperId) (prg chr : Nat) : Cart :=
  loadCart { resetParameters with mapperId := id, prgUnits := prg, chrUnits := chr }

/-- Table B24, mapper 004. -/
theorem test_mapper_004_banks :
    (cartOf .m004 16 16).prgOff = #v[0x00000, 0x02000, 0x3C000, 0x3E000] ∧
    (mapperWrite 0x8001 0x05 (mapperWrite 0x8000 0x46 (cartOf .m004 16 16))).prgOff =
      #v[0x3C000, 0x02000, 0x0A000, 0x3E000] := by decide

/-- Table B24, mapper 007. -/
theorem test_mapper_007_banks :
    (mapperWrite 0x8000 0x13 (cartOf .m007 8 0)).prgOff = #v[0x18000, 0x1A000, 0x1C000, 0x1E000] ∧
    (mapperWrite 0x8000 0x13 (cartOf .m007 8 0)).ntOffset = #v[0x400, 0x400, 0x400, 0x400] := ⟨rfl, rfl⟩

/-- Table B24, mapper 011. -/
theorem test_mapper_011_banks :
    (mapperWrite 0x8000 0x52 (cartOf .m011 4 8)).prgOff = #v[0x0000, 0x2000, 0x4000, 0x6000] ∧
    (mapperWrite 0x8000 0x52 (cartOf .m011 4 8)).chrOff[0] = 0xA000 := by decide

/-! ## A state and operands that meet the hypotheses of each obligation -/

/-- The machine at an instruction boundary with these index registers. -/
def indexed (x y : Byte) : State := atBoundary [] ⟨0x00, x, y, 0xFD, 0x24, 0x0200⟩ []

/-- The machine with other mapper registers, and with a CHR-ROM. -/
def onMapper (m : Mapper) (s : State) : State := { s with cart := { s.cart with mapper := m } }
def withChrRom (s : State) : State := { s with cart := { s.cart with chrUnits := 1 } }

theorem witness_DecodeInvertsEncode :
    wellFormed (.jmp (.indirect 0xFFFF)) = true ∧ wellFormed (.brk) = true ∧
    wellFormed (.illegal 0xFF) = true := by decide

theorem witness_EncodeInvertsDecode :
    decode [0xBD, 0xFF, 0xFF, 0x00] = .ok (.lda (.absoluteX 0xFFFF), [0x00]) := by decide

theorem witness_OpcodeMapRows :
    (∃ r ∈ opcodeTable, r.pagePenalty = true) ∧
    (∃ r ∈ opcodeTable, r.mnemonic = .sta ∧ r.mode = .absoluteX) ∧
    (∃ r ∈ opcodeTable, r.mnemonic = .sta ∧ r.mode = .absoluteY) ∧
    (∃ r ∈ opcodeTable, r.mnemonic = .sta ∧ r.mode = .indirectY) ∧
    (∃ r ∈ opcodeTable, r.mnemonic = .inc ∧ r.mode = .absoluteX) ∧
    (∃ r ∈ opcodeTable, r.mode = .relative) ∧ (∃ r ∈ opcodeTable, r.mode = .implied) ∧
    (∃ r ∈ opcodeTable, r.mnemonic = .jmp) :=
  ⟨⟨⟨0x11, .ora, .indirectY, 5, true⟩, by decide, rfl⟩,
    ⟨⟨0x9D, .sta, .absoluteX, 5, false⟩, by decide, rfl, rfl⟩,
    ⟨⟨0x99, .sta, .absoluteY, 5, false⟩, by decide, rfl, rfl⟩,
    ⟨⟨0x91, .sta, .indirectY, 6, false⟩, by decide, rfl, rfl⟩,
    ⟨⟨0xFE, .inc, .absoluteX, 7, false⟩, by decide, rfl, rfl⟩,
    ⟨⟨0xF0, .beq, .relative, 2, false⟩, by decide, rfl⟩, ⟨⟨0x00, .brk, .implied, 7, false⟩, by decide, rfl⟩,
    ⟨⟨0x6C, .jmp, .indirect, 5, false⟩, by decide, rfl⟩⟩

theorem witness_DecimalArithmeticIsDecimal : validBcd 0x99 = true ∧ validBcd 0x00 = true := by decide

/-- Each clause, with the page crossed. -/
theorem witness_LoadsComplete :
    (∃ m s', operandByte true (.absoluteX 0x00FF) (indexed 1 0) = .ok (m, 1) s') ∧
    (∃ m s', operandByte true (.absoluteY 0x00FF) (indexed 0 1) = .ok (m, 1) s') ∧
    rowFor .lda .absoluteX = some ⟨0xBD, .lda, .absoluteX, 4, true⟩ ∧
    rowFor .ldx .absoluteY = some ⟨0xBE, .ldx, .absoluteY, 4, true⟩ ∧
    rowFor .ldy .absoluteX = some ⟨0xBC, .ldy, .absoluteX, 4, true⟩ :=
  ⟨⟨_, _, rfl⟩, ⟨_, _, rfl⟩, by decide, by decide, by decide⟩

/-- An address whose read completes, one whose read halts, and a pointer whose own read halts. -/
theorem witness_LoadsComplete_operands :
    (∃ s1 m t, address true (.absoluteX 0x00FF) (indexed 1 0) = .ok (.memory 0x0100, 1) s1 ∧
      memRead 0x0100 s1 = .ok m t) ∧
    (∃ s1 t, address false (.absolute 0x4018) (indexed 0 0) = .ok (.memory 0x4018, 0) s1 ∧
      memRead 0x4018 s1 = .halt t) ∧
    ∃ t, address false (.indirect 0x401F) (indexed 0 0) = .halt t :=
  ⟨⟨_, _, _, rfl, rfl⟩, ⟨_, _, rfl, rfl⟩, ⟨_, rfl⟩⟩

theorem witness_StoresComplete :
    (∃ s1 s2, address false (.absolute 0x07FF) (indexed 0 0) = .ok (.memory 0x07FF, 0) s1 ∧
      memWrite 0x07FF 0x00 s1 = .ok () s2) ∧
    rowFor .sta .absolute = some ⟨0x8D, .sta, .absolute, 4, false⟩ ∧
    rowFor .stx .absolute = some ⟨0x8E, .stx, .absolute, 4, false⟩ ∧
    rowFor .sty .absolute = some ⟨0x8C, .sty, .absolute, 4, false⟩ :=
  ⟨⟨_, _, rfl, rfl⟩, by decide, by decide, by decide⟩

theorem witness_AccumulatorInstructionsComplete :
    (∃ s', operandByte true (.indirectY 0xFF) (indexed 0 0xFF) = .ok (0x00, 0) s') ∧
    rowFor .adc .indirectY = some ⟨0x71, .adc, .indirectY, 5, true⟩ ∧
    rowFor .sbc .indirectY = some ⟨0xF1, .sbc, .indirectY, 5, true⟩ ∧
    rowFor .and .indirectY = some ⟨0x31, .and, .indirectY, 5, true⟩ ∧
    rowFor .ora .indirectY = some ⟨0x11, .ora, .indirectY, 5, true⟩ ∧
    rowFor .eor .indirectY = some ⟨0x51, .eor, .indirectY, 5, true⟩ :=
  ⟨⟨_, rfl⟩, by decide, by decide, by decide, by decide, by decide⟩

theorem witness_ComparesAndBitComplete :
    (∃ s', operandByte false (.zeroPage 0xFF) (indexed 0 0) = .ok (0x00, 0) s') ∧
    rowFor .cmp .zeroPage = some ⟨0xC5, .cmp, .zeroPage, 3, false⟩ ∧
    rowFor .cpx .zeroPage = some ⟨0xE4, .cpx, .zeroPage, 3, false⟩ ∧
    rowFor .cpy .zeroPage = some ⟨0xC4, .cpy, .zeroPage, 3, false⟩ ∧
    rowFor .bit .zeroPage = some ⟨0x24, .bit, .zeroPage, 3, false⟩ :=
  ⟨⟨_, rfl⟩, by decide, by decide, by decide, by decide⟩

theorem witness_ReadModifyWriteCompletes :
    (∃ s1 m s2 s3, address false (.zeroPage 0x10) (indexed 0 0) = .ok (.memory 0x0010, 0) s1 ∧
      memRead 0x0010 s1 = .ok m s2 ∧ memWrite 0x0010 (m + 1) s2 = .ok () s3) ∧
    rowFor .inc .zeroPage = some ⟨0xE6, .inc, .zeroPage, 5, false⟩ ∧
    rowFor .dec .zeroPage = some ⟨0xC6, .dec, .zeroPage, 5, false⟩ ∧
    rowFor .asl .zeroPage = some ⟨0x06, .asl, .zeroPage, 5, false⟩ ∧
    rowFor .lsr .zeroPage = some ⟨0x46, .lsr, .zeroPage, 5, false⟩ ∧
    rowFor .rol .zeroPage = some ⟨0x26, .rol, .zeroPage, 5, false⟩ ∧
    rowFor .ror .zeroPage = some ⟨0x66, .ror, .zeroPage, 5, false⟩ :=
  ⟨⟨_, _, _, _, rfl, rfl, rfl⟩, by decide, by decide, by decide, by decide, by decide, by decide⟩

/-- Both reads complete; the first halts; only the second halts. -/
theorem witness_JumpsComplete :
    (∃ lo s1 hi s2, memRead 0x02FF (indexed 0 0) = .ok lo s1 ∧ memRead 0x0200 s1 = .ok hi s2) ∧
    (∃ t, memRead 0x401F (indexed 0 0) = .halt t) ∧
    ∃ lo s1 t, memRead 0x4017 (indexed 0 0) = .ok lo s1 ∧ memRead 0x4018 s1 = .halt t :=
  ⟨⟨_, _, _, _, rfl, rfl⟩, ⟨_, rfl⟩, ⟨_, _, _, rfl, rfl⟩⟩

/-- A read that halts; a write that halts; a read-modify-write whose read halts, and one whose write
halts after its read of port 7. -/
theorem witness_HaltingAccessEndsTheInstruction :
    (∃ t, operandByte false (.absolute 0x4018) (indexed 0 0) = .halt t) ∧
    (∃ s1 t, address false (.absolute 0x401F) (indexed 0 0) = .ok (.memory 0x401F, 0) s1 ∧
      memWrite 0x401F 0x00 s1 = .halt t) ∧
    (∃ s1 t, address false (.absolute 0x4018) (indexed 0 0) = .ok (.memory 0x4018, 0) s1 ∧
      memRead 0x4018 s1 = .halt t) ∧
    (∃ s1 m s2, address false (.absolute 0x2007) (withChrRom (indexed 0 0)) =
        .ok (.memory 0x2007, 0) s1 ∧
      memRead 0x2007 s1 = .ok m s2 ∧ ∀ r, ∃ u, memWrite 0x2007 r s2 = .halt u) ∧
    rowFor .lda .absolute = some ⟨0xAD, .lda, .absolute, 4, false⟩ ∧
    rowFor .sta .absolute = some ⟨0x8D, .sta, .absolute, 4, false⟩ ∧
    rowFor .stx .absolute = some ⟨0x8E, .stx, .absolute, 4, false⟩ ∧
    rowFor .sty .absolute = some ⟨0x8C, .sty, .absolute, 4, false⟩ ∧
    rowFor .inc .absolute = some ⟨0xEE, .inc, .absolute, 6, false⟩ ∧
    rowFor .dec .absolute = some ⟨0xCE, .dec, .absolute, 6, false⟩ ∧
    rowFor .asl .absolute = some ⟨0x0E, .asl, .absolute, 6, false⟩ ∧
    rowFor .lsr .absolute = some ⟨0x4E, .lsr, .absolute, 6, false⟩ ∧
    rowFor .rol .absolute = some ⟨0x2E, .rol, .absolute, 6, false⟩ ∧
    rowFor .ror .absolute = some ⟨0x6E, .ror, .absolute, 6, false⟩ :=
  ⟨⟨_, rfl⟩, ⟨_, _, rfl, rfl⟩, ⟨_, _, rfl, rfl⟩, ⟨_, _, _, rfl, rfl, fun _ => ⟨_, rfl⟩⟩,
    by decide, by decide, by decide, by decide, by decide, by decide, by decide, by decide, by decide,
    by decide⟩

/-- R205, R246: `LSR $2007` of 01 on CHR-ROM halts in its write-back, at the address the read has moved
`v` to, with C and Z already set. -/
theorem test_halted_shift_keeps_its_flags :
    (match exec (.lsr (.absolute 0x2007))
        (withChrRom { indexed 0 0 with ppu := { (indexed 0 0).ppu with readBuffer := 0x01 } }) with
      | .next t => some (t.cpu.p, t.halted)
      | _ => none) = some (0x27, some (.unsupportedCartridgeAccess 0x0001 .ppu .write)) := by decide

theorem witness_RegistersHaveOnlyTheirWriters :
    (∃ t, exec .pha (indexed 0 0) = .next t) ∧ writesA .pha = false ∧ writesX .pha = false ∧
    writesY .pha = false ∧ writesSp .nop = false := ⟨⟨_, rfl⟩, by decide⟩

theorem witness_FlagsHaveOnlyTheirWriters : ∃ t, exec .plp (indexed 0 0) = .next t := ⟨_, rfl⟩

/-- A form that stores nothing; one that pushes, with the byte above and the byte below its slots. -/
theorem witness_OnlyPushedSlotsChange :
    storesMemory .nop = false ∧ (∃ t, exec .brk (indexed 0 0) = .next t) ∧ 0 < pushedBytes .brk ∧
    ∀ k : Nat, k < pushedBytes .brk →
      sameByte (stackAddr ((indexed 0 0).cpu.sp - BitVec.ofNat 8 k)) 0x01FE = false ∧
      sameByte (stackAddr ((indexed 0 0).cpu.sp - BitVec.ofNat 8 k)) 0x01FA = false :=
  ⟨by decide, ⟨_, rfl⟩, by decide, by decide⟩

/-- A store to RAM, to PPUDATA, to OAMDATA and to a mapper register. -/
theorem witness_StoresChangeOnlyTheirByte :
    (∃ s1 t, address false (.absolute 0x1FFF) (indexed 0 0) = .ok (.memory 0x1FFF, 0) s1 ∧
      exec (.sta (.absolute 0x1FFF)) (indexed 0 0) = .next t) ∧
    (∃ s1 t, address false (.absolute 0x3FFF) (indexed 0 0) = .ok (.memory 0x3FFF, 0) s1 ∧
      exec (.inc (.absolute 0x3FFF)) (indexed 0 0) = .next t) ∧
    (∃ s1 t, address false (.absolute 0x2004) (indexed 0 0) = .ok (.memory 0x2004, 0) s1 ∧
      exec (.stx (.absolute 0x2004)) (indexed 0 0) = .next t) ∧
    (∃ s1 t, address false (.absolute 0x8000) (onMapper (.m007 0) (indexed 0 0)) =
        .ok (.memory 0x8000, 0) s1 ∧
      exec (.sty (.absolute 0x8000)) (onMapper (.m007 0) (indexed 0 0)) = .next t) ∧
    (Instr.sta (.absolute 0x1FFF)).shape = some (.sta, .absolute 0x1FFF) ∧
    sameByte 0x1FFF 0x07FE = false :=
  ⟨⟨_, _, rfl, rfl⟩, ⟨_, _, rfl, rfl⟩, ⟨_, _, rfl, rfl⟩, ⟨_, _, rfl, rfl⟩, by decide, by decide⟩

theorem witness_InstructionsKeepTheRestOfTheMachine :
    ∃ t, exec (.sta (.absolute 0x4014)) (indexed 0 0) = .next t := ⟨_, rfl⟩

theorem witness_ReturnsUndoEntries :
    storeWf (indexed 0 0).bus.ram = true ∧ StatusInv (indexed 0 0) ∧
    (∃ t u, interruptEntry 0xFFFE (indexed 0 0) = .ok () t ∧ exec .rti t = .next u) ∧
    (∃ t u, interruptEntry 0x8000 (indexed 0 0) = .ok () t ∧ exec .rti t = .next u) ∧
    (∃ t u, exec .brk (indexed 0 0) = .next t ∧ exec .rti t = .next u) ∧
    ∃ t u, exec (.jsr 0x9000) (indexed 0 0) = .next t ∧ exec .rts t = .next u :=
  ⟨by decide, rfl, ⟨_, _, rfl, rfl⟩, ⟨_, _, rfl, rfl⟩, ⟨_, _, rfl, rfl⟩, ⟨_, _, rfl, rfl⟩⟩

/-- The boundary with its request latches. -/
def requested (nmi irq : Bool) (p : Byte) : State :=
  { indexed 0 0 with cpu := { (indexed 0 0).cpu with nmiPending := nmi, irqPending := irq, p := p } }

theorem witness_InterruptsAtABoundary :
    (∀ n i p, (requested n i p).halted = none ∧ (requested n i p).cpu.remainingCycles = 0) ∧
    (requested true true 0x24).cpu.nmiPending = true ∧
    ((requested false true 0x20).cpu.irqPending = true ∧ flagI (requested false true 0x20).cpu.p = false) ∧
    ((requested false true 0x24).cpu.irqPending = true ∧ flagI (requested false true 0x24).cpu.p = true) :=
  ⟨fun _ _ _ => ⟨rfl, rfl⟩, by decide, by decide, by decide⟩

theorem witness_TicksAreCounted :
    State.reset.halted = none ∧ State.reset.cpu.remainingCycles = 6 + 1 ∧
    (dot (dot (dot State.reset))).cpu.remainingCycles = 6 + 1 ∧
    ∃ t, step State.reset = .next t ∧ t.halted = none := ⟨rfl, rfl, rfl, _, rfl, rfl⟩

/-- R243, R300: the three dots of a step are made while cycles remain, and where an NMI is entered. -/
theorem test_dots_of_every_step :
    (match step State.reset with
      | .next t => some (t.ppu.cycle, t.cpu.remainingCycles)
      | _ => none) = some (3, 6) ∧
    (match step { requested false false 0x24 with ppu := { State.reset.ppu with
        renderState := .verticalBlanking, scanline := 242, cycle := 0, ctrl := 0x80 } } with
      | .next t => some (t.ppu.cycle, t.ppu.vblank, t.cpu.sp, t.cpu.remainingCycles)
      | _ => none) = some (3, true, 0xFA, 6) := by decide

theorem witness_HaltedMachineStays :
    ({ State.reset with halted := some .illegalAddressingMode } : State).halted.isSome = true := rfl

theorem witness_StepRunsTheDecodedInstruction :
    let s := State.reset.withFetchWord 24 0x02108D
    s.halted = none ∧ (threeDots s).cpu.remainingCycles = 0 ∧ (threeDots s).cpu.nmiPending = false ∧
    (threeDots s).cpu.irqPending = false ∧
    (∃ u t, readBytes 3 (threeDots s).cpu.pc
        { threeDots s with cpu := { (threeDots s).cpu with irqPending := false } } =
        .ok [0x8D, 0x10, 0x02] u ∧
      exec (.sta (.absolute 0x0210)) (u.setPc (u.cpu.pc + 3)) = .next t) ∧
    decode [0x8D, 0x10, 0x02] = .ok (.sta (.absolute 0x0210), []) :=
  ⟨rfl, rfl, rfl, rfl, ⟨_, _, rfl, rfl⟩, by decide⟩

/-- The boundary at `pc`, where a read of `$4017` returns `open_bus[7:5]` and `bit`. -/
def fetchAt (pc : Word) (openBus bit : Byte) : State :=
  { State.reset with
    cpu := { State.reset.cpu with pc := pc, remainingCycles := 0 }
    bus := { State.reset.bus with openBus := openBus, shift2 := bit } }

/-- What the step of a boundary at `pc` reads before it halts. -/
def haltsAfter (bytes : List Byte) (s : State) : Prop :=
  s.halted = none ∧ (threeDots s).cpu.remainingCycles = 0 ∧ (threeDots s).cpu.nmiPending = false ∧
  (threeDots s).cpu.irqPending = false ∧ (∃ e, decode bytes = .error e) ∧
  ∃ u t, readBytes bytes.length (threeDots s).cpu.pc
      { threeDots s with cpu := { (threeDots s).cpu with irqPending := false } } = .ok bytes u ∧
    memRead (u.cpu.pc + BitVec.ofNat 16 bytes.length) u = .halt t

/-- The opcode's own fetch halts; the operand byte of LDA IndirectX; the operand byte of LDY Immediate. -/
theorem witness_StepRunsTheDecodedInstruction_halting :
    haltsAfter [] (fetchAt 0x4018 0x00 0x00) ∧ haltsAfter [0xA1] (fetchAt 0x4017 0xA0 0x01) ∧
    haltsAfter [0xA0] (fetchAt 0x4017 0xA0 0x00) ∧ (rowAt 0xA0).map Row.mode = some .immediate ∧
    (rowAt 0xA1).map Row.mode = some .indirectX :=
  ⟨⟨rfl, rfl, rfl, rfl, ⟨_, rfl⟩, _, _, rfl, rfl⟩, ⟨rfl, rfl, rfl, rfl, ⟨_, rfl⟩, _, _, rfl, rfl⟩,
    ⟨rfl, rfl, rfl, rfl, ⟨_, rfl⟩, _, _, rfl, rfl⟩, by decide, by decide⟩

/-- The same byte through the first and the last mirror, and another byte. -/
theorem witness_RamIsMirrored :
    storeWf State.reset.bus.ram = true ∧ (0x1FFF : Word).toNat < 0x2000 ∧
    (0x07FF : Word).toNat % 0x800 = (0x1FFF : Word).toNat % 0x800 ∧
    (0x0000 : Word).toNat % 0x800 ≠ (0x1FFF : Word).toNat % 0x800 := by decide

theorem witness_OpenBusLatch :
    (∃ t v, memRead 0xFFFF State.reset = .ok v t) ∧ (∃ t, memRead 0x4018 State.reset = .halt t) ∧
    (0x2000 : Word).toNat % 8 ∈ [0, 1, 3, 5, 6] ∧ (0x3FFE : Word).toNat % 8 ∈ [0, 1, 3, 5, 6] ∧
    (0x4000 ≤ (0x4000 : Word).toNat ∧ (0x4015 : Word).toNat ≤ 0x4015) ∧
    ((0x4017 : Word).toNat ≤ 0x4017 ∧ (0x4017 : Word) ≠ 0x4014 ∧ (0x4017 : Word) ≠ 0x4016) :=
  ⟨⟨_, _, rfl⟩, ⟨_, rfl⟩, by decide, by decide, by decide, by decide⟩

/-- The mappers without PRG-RAM, CHR-ROM, and the addresses next to the forbidden ranges. -/
theorem witness_ForbiddenAccessesHalt :
    (onMapper (.m066 0) State.reset).cart.mapper.id ∈ [.m002, .m003, .m007, .m011, .m066] ∧
    0 < (withChrRom State.reset).cart.chrUnits ∧ (0x1FFF : PpuAddr).toNat < 0x2000 ∧
    (∃ v t, memRead 0x4017 (onMapper (.m066 0) State.reset) = .ok v t) ∧
    (∃ v t, memRead 0x4020 (onMapper (.m066 0) State.reset) = .ok v t) ∧
    (∃ t, memRead 0x6000 (onMapper (.m066 0) State.reset) = .halt t) ∧
    (∃ t, memRead 0x7FFF (onMapper (.m066 0) State.reset) = .halt t) ∧
    ∃ v t, memRead 0x6000 State.reset = .ok v t :=
  ⟨by decide, by decide, by decide, ⟨_, _, rfl⟩, ⟨_, _, rfl⟩, ⟨_, rfl⟩, ⟨_, rfl⟩, ⟨_, _, rfl⟩⟩

theorem witness_OtherReadsAreIdempotent :
    (∃ v t, memRead 0x2004 State.reset = .ok v t) ∧
    ¬ (0x2000 ≤ (0x2004 : Word).toNat ∧ (0x2004 : Word).toNat < 0x4000 ∧
      (0x2004 : Word).toNat % 8 ∈ [2, 7]) ∧ (0x2004 : Word) ≠ 0x4016 ∧ (0x2004 : Word) ≠ 0x4017 ∧
    (0x4020 ≤ (0x4020 : Word).toNat ∧ (0x5FFF : Word).toNat < 0x6000) ∧
    (0x6000 ≤ (0x6000 : Word).toNat ∧ (0x7FFF : Word).toNat < 0x8000) ∧
    State.reset.cart.mapper.id ∈ [.m000, .m001, .m004] ∧ storeWf State.reset.cart.prgRam = true ∧
    (0x8000 : Word).toNat / 0x2000 = 4 + (0 : Fin 4).val ∧
    (0xFFFF : Word).toNat / 0x2000 = 4 + (3 : Fin 4).val :=
  ⟨⟨_, _, rfl⟩, by decide, by decide, by decide, by decide, by decide, by decide, by decide, by decide,
    by decide⟩

/-- The ends of each part of the PPU bus, a write with CHR-RAM, and one outside CHR-ROM. -/
theorem witness_OtherReadsAreIdempotent_ppu :
    (0x0000 : PpuAddr).toNat / 0x400 = (0 : Fin 8).val ∧ (0x1FFF : PpuAddr).toNat / 0x400 = (7 : Fin 8).val ∧
    (0x2000 ≤ (0x2000 : PpuAddr).toNat ∧ (0x2000 : PpuAddr).toNat / 0x400 % 4 = (0 : Fin 4).val) ∧
    ((0x3EFF : PpuAddr).toNat < 0x3F00 ∧ (0x3EFF : PpuAddr).toNat / 0x400 % 4 = (3 : Fin 4).val) ∧
    0x3F00 ≤ (0x3F00 : PpuAddr).toNat ∧ State.reset.cart.chrUnits = 0 ∧
    0 < (withChrRom State.reset).cart.chrUnits ∧ storeWf State.reset.cart.chr = true ∧
    storeWf State.reset.cart.ntRam = true ∧ storeWf State.reset.ppu.palette = true := by decide

/-- R79, R81, R83, with horizontal mirroring: a nametable byte through its mirrors, and a palette alias. -/
theorem test_ppu_bus_write_is_read_back :
    (let t := (ppuWrite 0x2405 0x5A State.reset).state
     (ppuRead t 0x2005, ppuRead t 0x3405, ppuRead t 0x2805) = (0x5A, 0x5A, 0x00)) ∧
    (let t := (ppuWrite 0x3F10 0x2C State.reset).state
     (ppuRead t 0x3F00, ppuRead t 0x3FF0, ppuRead t 0x3F01) = (0x2C, 0x2C, 0x00)) := by decide

theorem witness_ControllerShiftsOutItsButtons :
    (0x01 : Byte).getLsbD 0 = true ∧ (0xFE : Byte).getLsbD 0 = false ∧
    ∃ s1 s2, memWrite 0x4016 0x01 State.reset = .ok () s1 ∧ memWrite 0x4016 0xFE s1 = .ok () s2 :=
  ⟨rfl, rfl, _, _, rfl, rfl⟩

theorem witness_OamDmaCopiesThePage :
    State.reset.halted = none ∧ storeWf State.reset.ppu.oam = true ∧
    backed (wordOf 0x00 State.reset.bus.dmaPage) State.reset = true := by decide

/-- Both ports at a mirror, with `v` on either side of the palette's start. -/
theorem witness_StatusAndDataPorts :
    (0x3FFA : Word).toNat % 8 = 2 ∧ (0x3FFF : Word).toNat % 8 = 7 ∧ (0x3FFF : Word).toNat < 0x4000 ∧
    (busAddr 0x7EFF).toNat < 0x3F00 ∧ 0x3F00 ≤ (busAddr 0x7F00).toNat ∧
    (0x3FF8 : Word).toNat % 8 = 0 ∧ (0x2001 : Word).toNat % 8 = 1 ∧ (0x2003 : Word).toNat % 8 = 3 ∧
    (0x3FFC : Word).toNat % 8 = 4 ∧ storeWf State.reset.ppu.oam = true := by decide

/-- The last mirrored nametable byte, two palette mirrors, and an aliased entry. -/
theorem witness_PpuBusMirrors :
    ((0x2EFF : PpuAddr).toNat < 0x2F00 ∧ (0x3EFF : PpuAddr).toNat = (0x2EFF : PpuAddr).toNat + 0x1000) ∧
    (0x3F00 : PpuAddr).toNat % 32 = (0x3FE0 : PpuAddr).toNat % 32 ∧
    ((0x3F0C : PpuAddr).toNat % 32 ∈ [0x00, 0x04, 0x08, 0x0C] ∧
      (0x3FFC : PpuAddr).toNat % 32 = (0x3F0C : PpuAddr).toNat % 32 + 0x10) := by decide

theorem witness_TwoWritesSetScrollAndAddress :
    State.reset.ppu.w = false ∧
    ((0x2006 : Word).toNat % 8 = 6 ∧ (0x3FFE : Word).toNat % 8 = 6) ∧
    ((0x2005 : Word).toNat % 8 = 5 ∧ (0x3FFD : Word).toNat % 8 = 5) ∧
    (memWrite 0x2006 0x3D State.reset).state.ppu.w = true := by decide

/-- At a position of the frame. -/
def atDot (r : RenderState) (line cycle : Nat) : State :=
  { State.reset with ppu := { State.reset.ppu with renderState := r, scanline := line, cycle := cycle } }

/-- The dot that sets vblank, the dot that clears the flags, and a dot that does neither. -/
theorem witness_WhenADotRequestsAnInterrupt :
    ((atDot .verticalBlanking 242 0).halted = none ∧
      (atDot .verticalBlanking 242 0).ppu.renderState = .verticalBlanking ∧
      (atDot .verticalBlanking 242 0).ppu.scanline = 242 ∧ (atDot .verticalBlanking 242 0).ppu.cycle = 0) ∧
    ((atDot .preRender 261 1).halted = none ∧ (atDot .preRender 261 1).ppu.renderState = .preRender ∧
      (atDot .preRender 261 1).ppu.cycle = 1) ∧
    (atDot .verticalBlanking 242 1).ppu.cycle ≠ 0 ∧
    (atDot .verticalBlanking 242 1).ppu.renderState ≠ .preRender := by decide

/-- The same position with rendering on. -/
def rendered (r : RenderState) (line cycle : Nat) : State :=
  { atDot r line cycle with ppu := { (atDot r line cycle).ppu with mask := 0x08 } }

/-- The ends of the dots that move `v`, and the dots next to them. -/
theorem witness_ScrollIncrementsByField :
    (∀ r n c, (rendered r n c).halted = none ∧ (rendered r n c).ppu.renderState = r ∧
      (rendered r n c).ppu.cycle = c ∧ (rendered r n c).ppu.mask.getLsbD 3 = true) ∧
    (rendered .render 0 8).ppu.v ≠ (clock (rendered .render 0 8)).2.ppu.v ∧
    (rendered .render 0 7).ppu.v = (clock (rendered .render 0 7)).2.ppu.v ∧
    (rendered .render 0 256).ppu.v ≠ (clock (rendered .render 0 256)).2.ppu.v ∧
    (rendered .render 0 258).ppu.v = (clock (rendered .render 0 258)).2.ppu.v ∧
    (clock (rendered .preRender 261 257)).2.ppu.v = (rendered .preRender 261 257).ppu.t ∧
    280 ≤ (rendered .preRender 261 280).ppu.cycle ∧ (rendered .preRender 261 304).ppu.cycle ≤ 304 :=
  ⟨fun _ _ _ => ⟨rfl, rfl, rfl, by simp [rendered]⟩, by decide, by decide, by decide, by decide, by decide, by decide,
    by decide⟩

/-- A mapper-004 machine at dot 260, and a drawing dot. -/
theorem witness_InstructionsKeepTheRestOfTheMachine_dots :
    (let s := onMapper (.m004 ⟨0, #v[0, 2, 4, 5, 6, 7, 0, 1], 3, 0, true, true⟩) (rendered .render 0 260)
     s.halted = none ∧ s.ppu.renderState = .render ∧ s.ppu.cycle = 260 ∧ s.ppu.mask.getLsbD 3 = true ∧
      (clock s).2.cart.mapper = .m004 ⟨0, #v[0, 2, 4, 5, 6, 7, 0, 1], 3, 3, false, true⟩) ∧
    (rendered .render 0 1).ppu.cycle ≤ 256 ∧ (rendered .render 0 0).ppu.cycle < 1 := by decide

/-- Both parities. -/
theorem witness_FrameTakesItsDots :
    (State.reset.halted = none ∧ State.reset.ppu.renderState = .preRender ∧
      State.reset.ppu.scanline = 261 ∧ State.reset.ppu.cycle = 0 ∧ State.reset.ppu.oddFrame = false) ∧
    ({ State.reset with ppu := { State.reset.ppu with oddFrame := true } } : State).halted = none ∧
    ((atDot .render 239 340).ppu.renderState ≠ .finished ∧ 340 ≤ (atDot .render 239 340).ppu.cycle ∧
      (atDot .render 239 339).ppu.cycle < 340) := by
  decide

/-- A nine-sprite line: `found` is longer than the cache. -/
theorem witness_SpriteEvaluation : (evaluateSprites 0 State.reset.ppu).secCount = 8 := by decide

/-- The dot that evaluates, the dot that empties the cache, and the dots before them. -/
theorem witness_SpriteEvaluation_dots :
    (clock (rendered .render 0 340)).2.ppu.secCount = 8 ∧
    (clock (rendered .render 0 340)).2.ppu.spriteOverflow = true ∧
    (clock (rendered .render 0 339)).2.ppu.secCount = 0 ∧
    (rendered .preRender 261 339).halted = none ∧
    (rendered .preRender 261 339).ppu.renderState = .preRender ∧
    (rendered .preRender 261 339).ppu.cycle = 339 := by decide

/-- Both an opaque background and an opaque sprite 0 at this dot of line 1. -/
def opaqueDot (cycle : Nat) (mask : Byte) : State :=
  { State.reset with
    ppu := { State.reset.ppu with
      renderState := .render, scanline := 1, cycle := cycle, mask := mask, secCount := 1 }
    cart := { State.reset.cart with chr := [(0, 0xFF)] } }

theorem witness_SpriteZeroAndBackdrop :
    ((opaqueDot 1 0x1E).ppu.sprite0Hit = false ∧ (clock (opaqueDot 1 0x1E)).2.ppu.sprite0Hit = true) ∧
    ((opaqueDot 1 0x00).ppu.mask.getLsbD 3 = false ∧ (opaqueDot 1 0x00).ppu.mask.getLsbD 4 = false ∧
      storeWf (opaqueDot 1 0x00).ppu.pixels = true) ∧
    (opaqueDot 256 0x00).ppu.cycle ≤ 256 ∧ (opaqueDot 256 0x00).ppu.renderState = .render ∧
    (frontSprite (opaqueDot 1 0x1E) 0 1 = some 0 ∧ 0 < (backgroundNumbers (opaqueDot 1 0x1E) 0).1) ∧
    pixelEntry (opaqueDot 1 0x1E) 0 1 = 17 ∧
    ¬ ((opaqueDot 1 0x1E).ppu.renderState = .preRender ∧ (opaqueDot 1 0x1E).ppu.cycle = 1) := by decide

/-- The registers of mapper 001 as loaded. -/
def loaded001 : Mapper001 := ⟨0, 0, 0x0C, 0, 0, 0⟩

theorem witness_SerialWritesSetThePrgBank :
    (cartOf .m001 8 0).mapper = .m001 loaded001 ∧ loaded001.shift = 0 ∧ loaded001.shiftCount = 0 ∧
    [0x01, 0x00, 0x01, 0x00, 0x00].map (fun v : Byte => v.getLsbD 7) =
      [false, false, false, false, false] ∧
    [0x01, 0x00, 0x01, 0x00, 0x00].map (fun v : Byte => v.getLsbD 0) =
      (List.range 5).map (5 : BitVec 5).getLsbD ∧
    0 < (cartOf .m001 8 0).prgUnits ∧ 0x8000 ≤ (0x8000 : Word).toNat ∧
    (0x9FFF : Word).toNat / 0x2000 = 4 ∧ (0xA000 : Word).toNat / 0x2000 = 5 ∧
    (0xDFFF : Word).toNat / 0x2000 = 6 ∧ (0xFFFF : Word).toNat / 0x2000 = 7 ∧
    loaded001.control.toNat / 4 % 4 = 3 ∧ (0x80 : Byte).getLsbD 7 = true := by decide

theorem witness_BankRegisterWrites :
    0 < (cartOf .m000 1 0).prgUnits ∧ (cartOf .m000 1 0).mapper = .m000 ∧
    (cartOf .m002 8 0).mapper = .m002 0 ∧ (cartOf .m003 2 4).mapper = .m003 0 ∧
    (cartOf .m007 8 0).mapper = .m007 0 ∧ (cartOf .m011 4 8).mapper = .m011 0 ∧
    (cartOf .m066 8 4).mapper = .m066 0 ∧
    (cartOf .m004 16 16).mapper = .m004 ⟨0, #v[0, 2, 4, 5, 6, 7, 0, 1], 0, 0, false, false⟩ ∧
    (0x8000 ≤ (0x8000 : Word).toNat ∧ (0x9FFF : Word).toNat < 0xA000) ∧
    (0xA000 ≤ (0xA000 : Word).toNat ∧ (0xBFFF : Word).toNat < 0xC000) ∧
    (0xC000 ≤ (0xC000 : Word).toNat ∧ (0xDFFF : Word).toNat < 0xE000) ∧
    0xE000 ≤ (0xE000 : Word).toNat ∧ (0xFFFF : Word).toNat % 2 = 1 ∧ (0xFFFE : Word).toNat % 2 = 0 := by
  decide

/-- A latch of three, with its first and its last call. -/
theorem witness_ScanlineCounterCountsTheLatch :
    let r : Mapper004 := ⟨0, #v[0, 2, 4, 5, 6, 7, 0, 1], 3, 0, true, true⟩
    (onMapper (.m004 r) State.reset).cart.mapper = .m004 r ∧ r.irqReload = true ∧
    r.irqEnable = true ∧ r.irqLatch ≠ 0 ∧ 0 ≤ r.irqLatch.toNat ∧ 3 ≤ r.irqLatch.toNat := by decide

theorem witness_StatusInvariantKept : StatusInv State.reset ∧ ∃ t, step State.reset = .next t :=
  ⟨rfl, _, rfl⟩

/-- The state after reset meets the whole invariant. -/
theorem reset_inv : MachineInv State.reset where
  status := rfl
  memory := ⟨rfl, rfl, rfl, rfl, rfl, rfl, rfl, rfl⟩
  banks := ⟨by decide, by decide, by decide, rfl, trivial⟩
  position := ⟨rfl, by decide, fun _ => rfl, by decide⟩
  cycles := ⟨by decide, by decide⟩

theorem witness_MachineInvariantKept :
    (∃ t, step State.reset = .next t) ∧ MachineInv State.reset ∧ BankInv State.reset.cart :=
  ⟨⟨_, rfl⟩, reset_inv, reset_inv.banks⟩

theorem witness_LoadedCartridgeIsConstant :
    ∃ t, step (withChrRom State.reset) = .next t ∧ 0 < (withChrRom State.reset).cart.chrUnits :=
  ⟨_, rfl, by decide⟩

/-- Both mirrorings. -/
theorem witness_EveryLoadedMachineMeetsTheInvariant :
    start resetParameters = .ok State.reset ∧ resetParameters.mirroring = .horizontal ∧
    ∃ s, start { resetParameters with mirroring := .vertical } = .ok s := ⟨rfl, rfl, _, rfl⟩

theorem witness_ResetSetsItsFields : State.reset.halted = none := rfl

end Sys2Proof.Tests
end

section
/-! SUPPORT. What every instruction keeps: a relation between the states before and after that register
writes, bus accesses and a raise keep is kept by every instruction, every boundary and OAM DMA. One walk
through the instructions serves every such relation. -/

namespace Sys2Proof.Machine

/-- A relation between the state before and after that is kept by all an instruction is made of: it says
nothing about the registers of the instruction rules, and bus accesses and `raise` keep it. -/
structure InstrRel (R : State → State → Prop) : Prop where
  trans : ∀ a b c, R a b → R b c → R a c
  registers : ∀ (s : State) (c : Cpu), c.tickCounter = s.cpu.tickCounter →
    c.nmiPending = s.cpu.nmiPending → c.irqPending = s.cpu.irqPending → R s { s with cpu := c }
  raise : ∀ (r : HaltReason) (s : State), R s { s with halted := some r }
  read : ∀ (a : Word) (s : State), R s (memRead a s).state
  write : ∀ (a : Word) (v : Byte) (s : State), R s (memWrite a v s).state

section
variable {R : State → State → Prop} (h : InstrRel R)
include h

theorem InstrRel.refl (s : State) : R s s := h.registers s s.cpu rfl rfl rfl

/-- A write of registers alone, in the shape the operations end with. -/
theorem InstrRel.regs {s : State} {c : Cpu} (ht : c.tickCounter = s.cpu.tickCounter := by rfl)
    (hn : c.nmiPending = s.cpu.nmiPending := by rfl) (hi : c.irqPending = s.cpu.irqPending := by rfl) :
    R s { s with cpu := c } := h.registers s c ht hn hi

theorem InstrRel.bind {α β : Type} {m : Act α} {f : α → State → Act β} {s : State} (hm : R s m.state)
    (hf : ∀ a t, R t (f a t).state) : R s (m.bind f).state :=
  Act.bind_keeps R h.trans m f s hm hf

theorem noExtra_keeps {m : Act Unit} {s : State} (hm : R s m.state) : R s (noExtra m).state :=
  h.bind hm fun _ t => h.refl t

/-- Two reads make a word. -/
theorem readPair_keeps (a b : Word) (s : State) :
    R s ((memRead a s).bind fun lo s => (memRead b s).bind fun hi s => .ok (wordOf lo hi) s).state :=
  h.bind (h.read a s) fun _ t => h.bind (h.read b t) fun _ u => h.refl u

theorem push_keeps (v : Byte) (s : State) : R s (push v s).state :=
  h.bind (h.write _ v s) fun _ _ => h.regs

theorem pull_keeps (s : State) : R s (pull s).state :=
  h.trans _ (s.setSp (s.cpu.sp + 1)) _ h.regs (h.read _ _)

theorem push16_keeps (a : Word) (s : State) : R s (push16 a s).state :=
  h.bind (push_keeps h _ s) fun _ t => push_keeps h _ t

theorem pull16_keeps (s : State) : R s (pull16 s).state :=
  h.bind (pull_keeps h s) fun _ t => h.bind (pull_keeps h t) fun _ u => h.refl u

theorem enterException_keeps (vector ret : Word) (pushed : Byte) (s : State) :
    R s (enterException vector ret pushed s).state :=
  h.bind (push16_keeps h ret s) fun _ t =>
    h.bind (push_keeps h pushed t) fun _ u =>
      h.bind (h.trans _ (u.setP (withFlag maskI true u.cpu.p)) _ h.regs (readPair_keeps h _ _ _)) fun _ _ => h.regs

theorem returnFromInterrupt_keeps (s : State) : R s (returnFromInterrupt s).state :=
  h.bind (pull_keeps h s) fun b t =>
    h.bind (h.trans _ (t.setP (pulledStatus b)) _ h.regs (pull16_keeps h _)) fun _ _ => h.regs

theorem address_keeps (p : Bool) (o : Operand) (s : State) : R s (address p o s).state := by
  cases o with
  | indirect | indirectX | indirectY => exact h.bind (readPair_keeps h _ _ s) fun _ t => h.refl t
  | _ => exact h.refl s

theorem readRef_keeps (r : Ref) (s : State) : R s (readRef r s).state := by
  cases r with
  | none => exact h.raise _ s
  | accumulator | value => exact h.refl s
  | memory a => exact h.read a s

theorem writeRef_keeps (r : Ref) (v : Byte) (s : State) : R s (writeRef r v s).state := by
  cases r with
  | none | value => exact h.raise _ s
  | accumulator => exact h.regs
  | memory a => exact h.write a v s

theorem jumpRef_keeps (r : Ref) (s : State) : R s (jumpRef r s).state := by
  cases r with
  | memory => exact h.regs
  | _ => exact h.raise _ s

theorem complete_keeps (base : Nat) {m : Act Nat} {s : State} (hm : R s m.state) :
    ∃ t, complete base m = .next t ∧ R s t := by
  cases m with
  | ok extra t => exact ⟨_, rfl, h.trans _ _ _ hm h.regs⟩
  | halt t => exact ⟨t, rfl, hm⟩

/-- An instruction answers a next state and keeps the relation if its operation keeps it. -/
theorem operate_keeps {mn : Mnemonic} {o : Operand} {f : Ref → State → Act Nat}
    (hf : ∀ r s, R s (f r s).state) (s : State) : ∃ t, operate mn o f s = .next t ∧ R s t := by
  cases hrow : rowFor mn o.mode with
  | none =>
    simp only [operate, hrow]
    exact complete_keeps h _ (h.raise _ s)
  | some row =>
    rw [operate_row hrow]
    exact complete_keeps h _ (h.bind (address_keeps h _ o s) fun re t =>
      h.bind (hf re.1 t) fun _ u => h.refl u)

theorem modifyOperand_keeps (f : Byte → Byte → Byte × Byte) (r : Ref) (s : State) :
    R s (modifyOperand f r s).state :=
  h.bind (readRef_keeps h r s) fun _ t =>
    noExtra_keeps h (h.bind (writeRef_keeps h r _ t) fun _ _ => h.regs)

theorem shiftOperand_keeps (f : Byte → Byte → Byte × Byte) (r : Ref) (s : State) :
    R s (shiftOperand f r s).state :=
  h.bind (readRef_keeps h r s) fun m t =>
    noExtra_keeps h (h.trans _ (t.setP (f m t.cpu.p).2) _ h.regs (writeRef_keeps h r _ _))

theorem branchWhen_keeps (cond : Byte → Bool) (r : Ref) (s : State) : R s (branchWhen cond r s).state := by
  unfold branchWhen
  split
  · exact h.bind (jumpRef_keeps h r s) fun _ t => h.refl t
  · exact h.refl s

/-- Every instruction answers a next state, and what its parts keep, it keeps. -/
theorem exec_keeps (i : Instr) (s : State) : ∃ t, exec i s = .next t ∧ R s t := by
  unfold exec
  cases i with
  | lda | ldx | ldy | adc | sbc | and | ora | eor | cmp | cpx | cpy | bit =>
    refine operate_keeps h (fun r t => ?_) s
    exact h.bind (readRef_keeps h r t) fun _ _ => h.regs
  | sta | stx | sty =>
    refine operate_keeps h (fun r t => ?_) s
    exact noExtra_keeps h (writeRef_keeps h r _ t)
  | inc | dec => exact operate_keeps h (modifyOperand_keeps h _) s
  | asl | lsr | rol | ror => exact operate_keeps h (shiftOperand_keeps h _) s
  | tax | tay | txa | tya | tsx | txs | inx | iny | dex | dey | clc | sec | cli | sei | clv | cld | sed | nop =>
    refine operate_keeps h (fun _ t => ?_) s
    exact h.regs
  | pha | php =>
    refine operate_keeps h (fun _ t => ?_) s
    exact noExtra_keeps h (push_keeps h _ t)
  | pla | plp =>
    refine operate_keeps h (fun _ t => ?_) s
    exact h.bind (pull_keeps h t) fun _ _ => h.regs
  | bcc | bcs | beq | bne | bmi | bpl | bvc | bvs =>
    refine operate_keeps h (fun r t => ?_) s
    exact branchWhen_keeps h _ r t
  | jmp =>
    refine operate_keeps h (fun r t => ?_) s
    exact noExtra_keeps h (jumpRef_keeps h r t)
  | jsr =>
    refine operate_keeps h (fun r t => ?_) s
    exact noExtra_keeps h (h.bind (push16_keeps h _ t) fun _ u => jumpRef_keeps h r u)
  | rts =>
    refine operate_keeps h (fun _ t => ?_) s
    exact h.bind (pull16_keeps h t) fun _ _ => h.regs
  | brk =>
    refine operate_keeps h (fun _ t => ?_) s
    exact noExtra_keeps h (enterException_keeps h _ _ _ t)
  | rti =>
    refine operate_keeps h (fun _ t => ?_) s
    exact noExtra_keeps h (returnFromInterrupt_keeps h t)
  | illegal opcode =>
    exact complete_keeps h 0 (m := raise (.illegalOpcode opcode (s.cpu.pc - 1)) s) (h.raise _ s)

theorem fetch_keeps (s : State) : R s (fetch s).state := h.bind (h.read _ s) fun _ _ => h.regs

theorem fetchImmediate_keeps (s : State) : R s (fetchImmediate s).state :=
  h.trans _ (s.setPc (s.cpu.pc + 1)) _ h.regs (h.read _ _)

theorem fetchOperands_keeps (opcode : Byte) (s : State) : R s (fetchOperands opcode s).state := by
  unfold fetchOperands
  split
  · exact h.refl s
  · refine h.bind ?_ fun _ t => h.refl t
    split
    · exact fetchImmediate_keeps h s
    · exact fetch_keeps h s
  · exact h.bind (fetch_keeps h s) fun _ t => h.bind (fetch_keeps h t) fun _ u => h.refl u

theorem fetchInstr_keeps (s : State) : R s (fetchInstr s).state :=
  h.bind (fetch_keeps h s) fun opcode t => fetchOperands_keeps h opcode t

theorem runInstr_keeps (s : State) : ∃ t, runInstr s = .next t ∧ R s t := by
  have hfetch := fetchInstr_keeps h s
  unfold runInstr
  split
  · next i t hi =>
    rw [hi] at hfetch
    obtain ⟨u, hu, hr⟩ := exec_keeps h i t
    exact ⟨u, hu, h.trans _ _ _ hfetch hr⟩
  · next t ht =>
    rw [ht] at hfetch
    exact ⟨t, rfl, hfetch⟩

/-- A boundary answers a next state, and keeps a relation that says nothing of the request latches. -/
theorem boundary_keeps (latches : ∀ (s : State) (n i : Bool),
      R s { s with cpu := { s.cpu with nmiPending := n, irqPending := i } }) (s : State) :
    ∃ t, boundary s = .next t ∧ R s t := by
  have after (u : State) (hu : R s u) {r : Result} (hr : ∃ t, r = .next t ∧ R u t) :
      ∃ t, r = .next t ∧ R s t := by
    obtain ⟨t, ht, hut⟩ := hr
    exact ⟨t, ht, h.trans _ _ _ hu hut⟩
  have entry (vector : Word) (u : State) : ∃ t, takeInterrupt vector u = .next t ∧ R u t :=
    complete_keeps h _ (noExtra_keeps h (enterException_keeps h _ _ _ u))
  unfold boundary
  split
  · exact after _ (latches s false s.cpu.irqPending) (entry _ _)
  · dsimp only
    split
    · exact after _ (latches s s.cpu.nmiPending false) (entry _ _)
    · exact after _ (latches s s.cpu.nmiPending false) (runInstr_keeps h _)

end

end Sys2Proof.Machine
end

section
/-! SUPPORT. The frame of an instruction: what bus accesses leave of the rest of the machine, and that none
clears the halted bit. -/

namespace Sys2Proof.Machine

/-- The halted bit is as before or set: never cleared. -/
def HaltKept (s t : State) : Prop := t.halted = s.halted ∨ t.halted.isSome = true

theorem HaltKept.refl (s : State) : HaltKept s s := .inl rfl

theorem HaltKept.trans {a b c : State} (h : HaltKept a b) (k : HaltKept b c) : HaltKept a c := by
  rcases k with k | k
  · rcases h with h | h
    · exact .inl (k.trans h)
    · exact .inr (k ▸ h)
  · exact .inr k

theorem memRead_haltKept (a : Word) (s : State) : HaltKept s (memRead a s).state := by
  rcases memRead_cases a s with ⟨r, -, h⟩ | ⟨-, h⟩ <;> rw [h]
  · exact .inr rfl
  · exact .inl (readValue_frame a s).2

theorem ppuWrite_haltKept (a : PpuAddr) (v : Byte) (s : State) : HaltKept s (ppuWrite a v s).state := by
  unfold ppuWrite
  split
  · split
    · exact .inl rfl
    · exact .inr rfl
  · split <;> exact .inl rfl

theorem ppuPortWrite_haltKept (port : BitVec 3) (v : Byte) (s : State) :
    HaltKept s (ppuPortWrite port v s).state := by
  have data : HaltKept s ((ppuWrite (busAddr s.ppu.v) v s).bind fun _ s =>
      .ok () { s with ppu.v := s.ppu.v + dataStep s.ppu }).state :=
    Act.bind_keeps HaltKept (fun _ _ _ => HaltKept.trans) _ _ _ (ppuWrite_haltKept _ v s) fun _ _ => .inl rfl
  unfold ppuPortWrite
  iterate 7 (split; · exact .inl rfl)
  exact data

theorem ioWrite_halted (a : Word) (v : Byte) (s : State) : (ioWrite a v s).halted = s.halted := by
  unfold ioWrite
  repeat' split
  all_goals rfl

theorem writeValue_haltKept (a : Word) (v : Byte) (s : State) : HaltKept s (writeValue a v s).state := by
  unfold writeValue
  split
  · exact .inl rfl
  · split
    · exact ppuPortWrite_haltKept _ v s
    · split
      · exact .inl (ioWrite_halted a v s)
      · split
        · exact .inr rfl
        · split
          · exact .inl rfl
          · exact .inr rfl

theorem memWrite_haltKept (a : Word) (v : Byte) (s : State) : HaltKept s (memWrite a v s).state :=
  HaltKept.trans (b := s.setOpenBus v) (.inl rfl) (writeValue_haltKept a v _)

/-- A bus write's frame says nothing of the CPU but that it is kept. -/
theorem WriteFrame.withCpu {s t : State} (h : WriteFrame s t) (c : Cpu) :
    WriteFrame { s with cpu := c } { t with cpu := c } := ⟨rfl, h.host, h.ppu, h.cart⟩

/-- Everything an instruction can change: its registers and cycle count, what bus accesses can change, and a
halt. -/
structure InstrFrame (s t : State) : Prop where
  ticks : t.cpu.tickCounter = s.cpu.tickCounter
  latches : t.cpu.nmiPending = s.cpu.nmiPending ∧ t.cpu.irqPending = s.cpu.irqPending
  bus : WriteFrame { s with cpu := t.cpu } t
  halted : HaltKept s t

theorem InstrFrame.trans {a b c : State} (h : InstrFrame a b) (k : InstrFrame b c) : InstrFrame a c where
  ticks := k.ticks.trans h.ticks
  latches := ⟨k.latches.1.trans h.latches.1, k.latches.2.trans h.latches.2⟩
  bus := WriteFrame.trans (h.bus.withCpu c.cpu) k.bus
  halted := h.halted.trans k.halted

/-- A bus access that never clears the halted bit has the frame of an instruction. -/
theorem WriteFrame.toInstr {s t : State} (h : WriteFrame s t) (hh : HaltKept s t) : InstrFrame s t where
  ticks := by rw [h.cpu]
  latches := by rw [h.cpu]; exact ⟨rfl, rfl⟩
  bus := by rw [h.cpu]; exact h
  halted := hh

theorem instrFrame_rel : InstrRel InstrFrame where
  trans _ _ _ := InstrFrame.trans
  registers s _ ht hn hi := ⟨ht, ⟨hn, hi⟩, WriteFrame.refl _, HaltKept.refl s⟩
  raise r s := (writeFrame_raise r s).toInstr (.inr rfl)
  read a s := (memRead_frame a s).toWrite.toInstr (memRead_haltKept a s)
  write a v s := (memWrite_frame a v s).toInstr (memWrite_haltKept a v s)

theorem exec_frame {i : Instr} {s t : State} (h : exec i s = .next t) : InstrFrame s t := by
  obtain ⟨u, hu, hr⟩ := exec_keeps instrFrame_rel i s
  rw [h] at hu
  cases hu
  exact hr

theorem CartFrame.constants {c d : Cart} (h : CartFrame c d) :
    d.format = c.format ∧ d.tvSystem = c.tvSystem ∧ d.prgUnits = c.prgUnits ∧ d.chrUnits = c.chrUnits ∧
      d.prgRamUnits = c.prgRamUnits ∧ d.prgRom = c.prgRom := by
  rw [h.rest]
  exact ⟨rfl, rfl, rfl, rfl, rfl, rfl⟩

/-- No bus write moves the render position. -/
theorem WriteFrame.position {s t : State} (h : WriteFrame s t) :
    t.ppu.renderState = s.ppu.renderState ∧ t.ppu.scanline = s.ppu.scanline ∧
      t.ppu.cycle = s.ppu.cycle ∧ t.ppu.oddFrame = s.ppu.oddFrame := by
  rw [h.ppu]
  exact ⟨rfl, rfl, rfl, rfl⟩

/-- No bus write changes secondary OAM, a sprite flag or a pixel. -/
theorem WriteFrame.sprites {s t : State} (h : WriteFrame s t) :
    t.ppu.secCount = s.ppu.secCount ∧ t.ppu.secIndex = s.ppu.secIndex ∧
      t.ppu.sprite0Hit = s.ppu.sprite0Hit ∧ t.ppu.spriteOverflow = s.ppu.spriteOverflow ∧
      t.ppu.pixels = s.ppu.pixels := by
  rw [h.ppu]
  exact ⟨rfl, rfl, rfl, rfl, rfl⟩

end Sys2Proof.Machine
end

section
/-! SUPPORT. What a dot can change: the frame of `clock()`, the one dot that clocks the cartridge's scanline
counter, and the one pixel a dot draws. -/

namespace Sys2Proof.Machine

/-- Everything a dot's action can change: the scroll register, the status flags, secondary OAM, the pixels
and the cartridge. -/
def ActionFrame (s t : State) : Prop :=
  t = { s with
    cart := t.cart
    ppu := { s.ppu with
      v := t.ppu.v, vblank := t.ppu.vblank, sprite0Hit := t.ppu.sprite0Hit,
      spriteOverflow := t.ppu.spriteOverflow, secCount := t.ppu.secCount, secIndex := t.ppu.secIndex,
      pixels := t.ppu.pixels } }

theorem ActionFrame.refl (s : State) : ActionFrame s s := rfl

theorem ActionFrame.trans {a b c : State} (h : ActionFrame a b) (k : ActionFrame b c) : ActionFrame a c := by
  unfold ActionFrame at *
  rw [h] at k
  exact k

/-- An action that leaves the cartridge and the pixels too. -/
structure QuietFrame (s t : State) : Prop where
  frame : ActionFrame s t
  cart : t.cart = s.cart
  pixels : t.ppu.pixels = s.ppu.pixels

theorem QuietFrame.refl (s : State) : QuietFrame s s := ⟨rfl, rfl, rfl⟩

theorem QuietFrame.trans {a b c : State} (h : QuietFrame a b) (k : QuietFrame b c) : QuietFrame a c :=
  ⟨h.frame.trans k.frame, k.cart.trans h.cart, k.pixels.trans h.pixels⟩

/-- An action done at some dots only. -/
theorem QuietFrame.ite {s t : State} (c : Prop) [Decidable c] (h : QuietFrame s t) :
    QuietFrame s (if c then t else s) := by
  split
  · exact h
  · exact QuietFrame.refl s

theorem whenRendering_quiet (f : Ppu → Scroll) (s : State) : QuietFrame s (whenRendering f s) :=
  QuietFrame.ite _ ⟨rfl, rfl, rfl⟩

theorem clearFlags_quiet (s : State) : QuietFrame s
    { s with ppu.vblank := false, ppu.sprite0Hit := false, ppu.spriteOverflow := false } := ⟨rfl, rfl, rfl⟩

theorem clearCache_quiet (s : State) : QuietFrame s { s with ppu.secCount := 0 } := ⟨rfl, rfl, rfl⟩

theorem evaluateSprites_quiet (line : Nat) (s : State) :
    QuietFrame s { s with ppu := evaluateSprites line s.ppu } := ⟨rfl, rfl, rfl⟩

/-- The cartridge after the scanline hook of the dot (rule R309). -/
def hookCart (s : State) : Cart :=
  if s.ppu.cycle = 260 && rendering s.ppu then (scanlineIrq s.cart).2 else s.cart

/-- The pixels after the drawing of the dot (rule R298). -/
def drawnPixels (s : State) : Store 32 :=
  if 1 ≤ s.ppu.cycle && s.ppu.cycle ≤ 256 then (drawPixel s).ppu.pixels else s.ppu.pixels

theorem scanlineHook_frame (s : State) :
    ActionFrame s (scanlineHook s).2 ∧ (scanlineHook s).2.cart = hookCart s ∧
      (scanlineHook s).2.ppu = s.ppu := by
  unfold scanlineHook hookCart
  split <;> exact ⟨rfl, rfl, rfl⟩

theorem ActionFrame.hookCart_eq {s t : State} (h : ActionFrame s t) (hc : t.cart = s.cart) :
    hookCart t = hookCart s := by
  have hp : t.ppu.cycle = s.ppu.cycle ∧ t.ppu.mask = s.ppu.mask := by rw [h]; exact ⟨rfl, rfl⟩
  unfold hookCart rendering
  rw [hp.1, hp.2, hc]

/-- What a dot's action does to the cartridge and the pixels, and the frame of the rest. -/
structure ActionEffect (s t : State) (cart : Cart) (pixels : Store 32) : Prop where
  frame : ActionFrame s t
  cart : t.cart = cart
  pixels : t.ppu.pixels = pixels

/-- The hook of a dot between quiet actions, after any drawing. -/
theorem hook_effect {s s₁ s₂ t : State} (h₁ : ActionFrame s s₁) (hc : s₁.cart = s.cart)
    (h₂ : QuietFrame s₁ s₂) (h₃ : QuietFrame (scanlineHook s₂).2 t) :
    ActionEffect s t (hookCart s) s₁.ppu.pixels := by
  obtain ⟨hframe, hcart, hppu⟩ := scanlineHook_frame s₂
  refine ⟨((h₁.trans h₂.frame).trans hframe).trans h₃.frame, ?_, ?_⟩
  · rw [h₃.cart, hcart, (h₁.trans h₂.frame).hookCart_eq (h₂.cart.trans hc)]
  · rw [h₃.pixels, hppu, h₂.pixels]

theorem renderDot_effect (s : State) : ActionEffect s (renderDot s).2 (hookCart s) (drawnPixels s) := by
  unfold renderDot
  extract_lets s₁ s₂ s₃
  have draw : ActionFrame s s₁ ∧ s₁.cart = s.cart ∧ s₁.ppu.pixels = drawnPixels s := by
    unfold s₁ drawnPixels
    split <;> exact ⟨rfl, rfl, rfl⟩
  obtain ⟨hframe, hcart, hpixels⟩ := draw
  have move : QuietFrame s₁ s₃ :=
    (QuietFrame.ite _ (whenRendering_quiet _ s₁)).trans (QuietFrame.ite _ (whenRendering_quiet _ s₂))
  rw [← hpixels]
  exact hook_effect hframe hcart move (QuietFrame.ite _ (evaluateSprites_quiet _ _))

theorem preRenderDot_effect (s : State) : ActionEffect s (preRenderDot s).2 (hookCart s) s.ppu.pixels := by
  unfold preRenderDot
  extract_lets p s₁ s₂
  have move : QuietFrame s s₂ :=
    (QuietFrame.ite _ (clearFlags_quiet s)).trans (QuietFrame.ite _ (whenRendering_quiet _ s₁))
  exact hook_effect (ActionFrame.refl s) rfl move
    ((QuietFrame.ite _ (whenRendering_quiet _ _)).trans (QuietFrame.ite _ (clearCache_quiet _)))

theorem vblankDot_effect (s : State) : ActionEffect s (vblankDot s).2 s.cart s.ppu.pixels := by
  unfold vblankDot
  split <;> exact ⟨rfl, rfl, rfl⟩

/-- The dot's action in each render state. -/
theorem dotAction_effect (s : State) :
    ActionEffect s (dotAction s).2
      (if s.ppu.renderState = .render ∨ s.ppu.renderState = .preRender then hookCart s else s.cart)
      (if s.ppu.renderState = .render then drawnPixels s else s.ppu.pixels) := by
  unfold dotAction
  cases s.ppu.renderState with
  | render => exact renderDot_effect s
  | preRender => exact preRenderDot_effect s
  | verticalBlanking => exact vblankDot_effect s
  | postRender | finished => exact ⟨rfl, rfl, rfl⟩

/-- `clock()` does nothing on a halted machine or a finished frame, else the dot's action and `Advance()`. -/
theorem clock_cases (s : State) :
    ((s.halted.isSome = true ∨ s.ppu.renderState = .finished) ∧ clock s = (.generateNoInterrupt, s)) ∨
    (s.halted = none ∧
      clock s = ((dotAction s).1, { (dotAction s).2 with ppu := advance (dotAction s).2.ppu })) := by
  unfold clock
  split
  · next hc => exact .inl ⟨by simpa using hc, rfl⟩
  · next hc =>
    simp only [Bool.or_eq_true, not_or, Bool.not_eq_true, Option.isSome_eq_false_iff,
      Option.isNone_iff_eq_none] at hc
    exact .inr ⟨hc.1, rfl⟩

/-- `Advance()` moves the render position alone. -/
theorem advance_frame (p : Ppu) :
    advance p = { p with
      renderState := (advance p).renderState, scanline := (advance p).scanline,
      cycle := (advance p).cycle, oddFrame := (advance p).oddFrame } := by
  unfold advance
  repeat' split
  all_goals rfl

/-- Everything a dot can change: what its action can, and the render position. -/
theorem clock_frame (s : State) :
    (clock s).2 = { s with
      cart := (clock s).2.cart
      ppu := { s.ppu with
        v := (clock s).2.ppu.v, vblank := (clock s).2.ppu.vblank,
        sprite0Hit := (clock s).2.ppu.sprite0Hit, spriteOverflow := (clock s).2.ppu.spriteOverflow,
        secCount := (clock s).2.ppu.secCount, secIndex := (clock s).2.ppu.secIndex,
        renderState := (clock s).2.ppu.renderState, scanline := (clock s).2.ppu.scanline,
        cycle := (clock s).2.ppu.cycle, oddFrame := (clock s).2.ppu.oddFrame,
        pixels := (clock s).2.ppu.pixels } } := by
  rcases clock_cases s with ⟨-, h⟩ | ⟨-, h⟩ <;> rw [h]
  have hframe : ActionFrame s (dotAction s).2 := (dotAction_effect s).frame
  rw [advance_frame]
  generalize advance (dotAction s).2.ppu = q
  rw [hframe]

/-- The dots whose hook clocks the cartridge's scanline counter (rules R309, D39). -/
def HookDot (s : State) : Prop :=
  s.halted = none ∧ (s.ppu.renderState = .render ∨ s.ppu.renderState = .preRender) ∧
    s.ppu.cycle = 260 ∧ (s.ppu.mask.getLsbD 3 = true ∨ s.ppu.mask.getLsbD 4 = true)

/-- The dots that draw a pixel (rule R298). -/
def DrawDot (s : State) : Prop :=
  s.halted = none ∧ s.ppu.renderState = .render ∧ 1 ≤ s.ppu.cycle ∧ s.ppu.cycle ≤ 256

/-- A dot leaves the cartridge but for the hook. -/
theorem clock_cart (s : State) :
    (HookDot s ∧ (clock s).2.cart = (scanlineIrq s.cart).2) ∨ (¬ HookDot s ∧ (clock s).2.cart = s.cart) := by
  unfold HookDot
  rcases clock_cases s with ⟨hidle, h⟩ | ⟨hrun, h⟩ <;> rw [h]
  · refine .inr ⟨fun ⟨hrun, hstate, _⟩ => ?_, rfl⟩
    rcases hidle with hh | hf
    · simp [hrun] at hh
    · simp [hf] at hstate
  · have hcart := (dotAction_effect s).cart
    by_cases hs : s.ppu.renderState = .render ∨ s.ppu.renderState = .preRender
    · by_cases hd : s.ppu.cycle = 260 ∧ (s.ppu.mask.getLsbD 3 = true ∨ s.ppu.mask.getLsbD 4 = true)
      · rw [if_pos hs, hookCart, if_pos (by simpa [rendering] using hd)] at hcart
        exact .inl ⟨⟨hrun, hs, hd⟩, hcart⟩
      · refine .inr ⟨fun hk => hd hk.2.2, ?_⟩
        rw [if_pos hs, hookCart, if_neg (by simpa [rendering] using hd)] at hcart
        exact hcart
    · exact .inr ⟨fun hk => hs hk.2.1, by simpa [hs] using hcart⟩

/-- A dot leaves the pixels but for the one it draws. -/
theorem clock_pixels (s : State) :
    (DrawDot s ∧ (clock s).2.ppu.pixels = (drawPixel s).ppu.pixels) ∨
      (¬ DrawDot s ∧ (clock s).2.ppu.pixels = s.ppu.pixels) := by
  unfold DrawDot
  rcases clock_cases s with ⟨hidle, h⟩ | ⟨hrun, h⟩ <;> rw [h]
  · refine .inr ⟨fun ⟨hrun, hstate, _⟩ => ?_, rfl⟩
    rcases hidle with hh | hf
    · simp [hrun] at hh
    · simp [hf] at hstate
  · have hpixels : (advance (dotAction s).2.ppu).pixels = _ :=
      (congrArg Ppu.pixels (advance_frame _)).trans (dotAction_effect s).pixels
    by_cases hs : s.ppu.renderState = .render
    · by_cases hd : 1 ≤ s.ppu.cycle ∧ s.ppu.cycle ≤ 256
      · exact .inl ⟨⟨hrun, hs, hd⟩, by simpa [hs, drawnPixels, hd] using hpixels⟩
      · refine .inr ⟨fun hk => hd hk.2.2, ?_⟩
        rw [if_pos hs, drawnPixels, if_neg (by simpa using hd)] at hpixels
        exact hpixels
    · exact .inr ⟨fun hk => hs hk.2.1, by simpa [hs] using hpixels⟩

/-- Drawing changes the dot's own pixel alone. -/
theorem drawPixel_other {s : State} {k : Nat} (hk : k ≠ s.ppu.scanline * 256 + (s.ppu.cycle - 1)) :
    readCell (drawPixel s).ppu.pixels k = readCell s.ppu.pixels k :=
  readCell_writeCell_other _ _ hk

/-- One call of the hook reloads or decrements the counter and clears the reload flag. -/
theorem countScanline_eq (r : Mapper004) :
    countScanline r = { r with
      irqCounter := if r.irqCounter = 0 ∨ r.irqReload = true then r.irqLatch else r.irqCounter - 1
      irqReload := false } := by
  unfold countScanline
  split
  · rfl
  · next h =>
    obtain ⟨-, hreload⟩ := not_or.mp h
    rw [← Bool.eq_false_iff.mpr hreload]

theorem scanlineIrq_cart (c : Cart) :
    (∃ r, c.mapper = .m004 r ∧ (scanlineIrq c).2 = { c with mapper := .m004 (countScanline r) }) ∨
      ((∀ r, c.mapper ≠ .m004 r) ∧ (scanlineIrq c).2 = c) := by
  unfold scanlineIrq
  split
  · next r h => exact .inl ⟨r, h, rfl⟩
  · next h => exact .inr ⟨h, rfl⟩

end Sys2Proof.Machine
end

section
/-! The state, O32. -/

section

open Sys2Proof Sys2Proof.Machine

/-- Settles O32: the frame of an instruction (`exec_frame`), the frame of a dot, its hook and its pixel. -/
theorem instructionsKeepTheRestOfTheMachine : Obligations.InstructionsKeepTheRestOfTheMachine := by
  unfold Obligations.InstructionsKeepTheRestOfTheMachine
  refine ⟨fun i s t h => ?_, fun s => ?_⟩
  · obtain ⟨hticks, ⟨hnmi, hirq⟩, hbus, hhalted⟩ := exec_frame h
    obtain ⟨hformat, htv, hprg, hchr, hram, hrom⟩ := hbus.cart.constants
    exact ⟨⟨hticks, hnmi, hirq⟩, hbus.host, hbus.position, hbus.sprites,
      ⟨hformat, htv, hprg, hchr, hram, hrom, hbus.cart.id⟩, hhalted⟩
  · intro t p hook draws
    have hframe := clock_frame s
    refine ⟨?_, ?_, ?_, fun hd => ?_, fun k hk => ?_⟩
    · rw [show t = _ from hframe]
      exact ⟨rfl, rfl, rfl, rfl, rfl, rfl⟩
    · rw [show p = _ from congrArg State.ppu hframe]
      exact ⟨rfl, rfl, rfl, rfl, rfl, rfl, rfl, rfl, rfl⟩
    · rcases clock_cart s with ⟨hk, hcart⟩ | ⟨hk, hcart⟩
      · rcases scanlineIrq_cart s.cart with ⟨r, hr, hirq⟩ | ⟨hr, hirq⟩
        · rw [hirq, countScanline_eq] at hcart
          exact .inl ⟨r, hr, hk, hcart⟩
        · exact .inr ⟨fun ⟨⟨r, h⟩, _⟩ => hr r h, hcart.trans hirq⟩
      · exact .inr ⟨fun ⟨_, h⟩ => hk h, hcart⟩
    · rcases clock_pixels s with ⟨hdraw, -⟩ | ⟨-, hpixels⟩
      · exact absurd hdraw hd
      · exact hpixels
    · rcases clock_pixels s with ⟨-, hpixels⟩ | ⟨-, hpixels⟩
      · rw [show p.pixels = _ from hpixels]
        exact drawPixel_other hk
      · rw [show p.pixels = _ from hpixels]

end
end

section
/-! SUPPORT. The tick and the system step: each answers a next state, and what it does to the tick
counter. -/

namespace Sys2Proof.Machine

@[simp] theorem clock_cpu (s : State) : (clock s).2.cpu = s.cpu := by rw [clock_frame]

@[simp] theorem clock_halted (s : State) : (clock s).2.halted = s.halted := by rw [clock_frame]

@[simp] theorem resetFrame_cpu (s : State) : (resetFrame s).cpu = s.cpu := by
  unfold resetFrame
  split <;> rfl

@[simp] theorem resetFrame_halted (s : State) : (resetFrame s).halted = s.halted := by
  unfold resetFrame
  split <;> rfl

@[simp] theorem forward_tickCounter (e : PpuEvent) (s : State) :
    (forward e s).cpu.tickCounter = s.cpu.tickCounter := by cases e <;> rfl

@[simp] theorem forward_halted (e : PpuEvent) (s : State) : (forward e s).halted = s.halted := by
  cases e <;> rfl

@[simp] theorem dot_tickCounter (s : State) : (dot s).cpu.tickCounter = s.cpu.tickCounter := by simp [dot]

@[simp] theorem dot_halted (s : State) : (dot s).halted = s.halted := by simp [dot]

/-- The tick counter is as before. -/
def SameTicks (s t : State) : Prop := t.cpu.tickCounter = s.cpu.tickCounter

theorem sameTicks_rel : InstrRel SameTicks where
  trans _ _ _ h k := Eq.trans k h
  registers _ _ ht _ _ := ht
  raise _ _ := rfl
  read a s := congrArg Cpu.tickCounter (memRead_frame a s).cpu
  write a v s := congrArg Cpu.tickCounter (memWrite_frame a v s).cpu

/-- A boundary answers a next state and does not count. -/
theorem boundary_ticks (s : State) : ∃ t, boundary s = .next t ∧ SameTicks s t :=
  boundary_keeps sameTicks_rel (fun _ _ _ => rfl) s

theorem countTick_halted {s : State} (h : s.halted.isSome = true) : countTick s = s := if_pos h

theorem countTick_running {s : State} (h : s.halted = none) :
    countTick s = { s with cpu := { s.cpu with
      remainingCycles := s.cpu.remainingCycles - 1, tickCounter := s.cpu.tickCounter + 1 } } :=
  if_neg (by simp [h])

/-- A tick's count that ends unhalted has counted. -/
theorem countTick_counts {s : State} (h : (countTick s).halted = none) :
    (countTick s).cpu.tickCounter = s.cpu.tickCounter + 1 := by
  cases hs : s.halted with
  | none => rw [countTick_running hs]
  | some r =>
    rw [countTick_halted (by simp [hs]), hs] at h
    cases h

/-- Where cycles remain, a tick is the two counters alone. -/
theorem tick_burns {s : State} {n : Nat} (hs : s.halted = none) (hn : s.cpu.remainingCycles = n + 1) :
    tick s = .next { s with cpu := { s.cpu with
      remainingCycles := n, tickCounter := s.cpu.tickCounter + 1 } } := by
  simp [tick, hs, hn, countTick_running hs]

/-- A tick answers a next state, and has counted where that is unhalted. -/
theorem tick_next (s : State) :
    ∃ t, tick s = .next t ∧ (t.halted = none → t.cpu.tickCounter = s.cpu.tickCounter + 1) := by
  unfold tick
  split
  · next hs => exact ⟨s, rfl, fun hn => by simp [hn] at hs⟩
  · split
    · obtain ⟨u, hu, hticks⟩ := boundary_ticks s
      rw [hu]
      exact ⟨countTick u, rfl, fun hn => hticks ▸ countTick_counts hn⟩
    · exact ⟨countTick s, rfl, countTick_counts⟩

theorem dmaCopy_ticks (n i : Nat) (s : State) : SameTicks s (dmaCopy n i s).state := by
  induction n generalizing i s with
  | zero => rfl
  | succ n ih =>
    exact sameTicks_rel.bind (sameTicks_rel.read _ s) fun b t =>
      ih (i + 1) { t with ppu := writeOam b t.ppu }

theorem oamDma_ticks (s : State) : SameTicks s (oamDma s) := by
  have copy := dmaCopy_ticks 256 0 s
  unfold oamDma
  split
  · rfl
  · split
    · next t h => rwa [h] at copy
    · next t h =>
      rw [h] at copy
      exact copy

theorem serveDma_ticks (s : State) : SameTicks s (serveDma s) := by
  unfold serveDma
  split
  · exact oamDma_ticks s
  · rfl

theorem oamDma_of_halted {s : State} (h : s.halted.isSome = true) : oamDma s = s := if_pos h

theorem serveDma_of_halted {s : State} (h : s.halted.isSome = true) : serveDma s = s := by
  unfold serveDma
  rw [oamDma_of_halted h, ite_self]

/-- A system step of an unhalted machine, after a tick that answers `t`. -/
theorem step_of_tick {s t : State} (hs : s.halted = none) (ht : tick (threeDots s) = .next t) :
    step s = .next (serveDma t) := by
  simp [step, systemStep, hs, ht]

theorem step_of_halted {s : State} (h : s.halted.isSome = true) : step s = .next s := if_pos h

/-- A system step that ends unhalted has counted one tick. -/
theorem step_ticks {s t : State} (h : step s = .next t) (ht : t.halted = none) :
    t.cpu.tickCounter = s.cpu.tickCounter + 1 := by
  cases hs : s.halted with
  | some r =>
    rw [step_of_halted (by simp [hs])] at h
    cases h
    rw [hs] at ht
    cases ht
  | none =>
    obtain ⟨u, hu, hcount⟩ := tick_next (threeDots s)
    rw [step_of_tick hs hu] at h
    cases h
    have hrun : u.halted = none := by
      by_contra hne
      rw [serveDma_of_halted (Option.isSome_iff_ne_none.mpr hne)] at ht
      exact hne ht
    calc (serveDma u).cpu.tickCounter
      _ = u.cpu.tickCounter := serveDma_ticks u
      _ = (threeDots s).cpu.tickCounter + 1 := hcount hrun
      _ = s.cpu.tickCounter + 1 := by simp [threeDots]

end Sys2Proof.Machine
end

section
/-! The state, O35. -/

section

open Sys2Proof Sys2Proof.Machine

/-- Settles O35: the tick that burns a cycle, the shape of the system step, and its count. -/
theorem ticksAreCounted : Obligations.TicksAreCounted := by
  unfold Obligations.TicksAreCounted
  have running {s : State} (hs : s.halted = none) : (dot (dot (dot s))).halted = none := by simp [hs]
  refine ⟨fun s n hs hn => tick_burns hs hn, fun s hs => ⟨running hs, ?_⟩, fun s n hs hn => ?_,
    fun s t h ht => step_ticks h ht⟩
  · obtain ⟨t, ht, -⟩ := tick_next (threeDots s)
    exact ⟨t, ht, step_of_tick hs ht⟩
  · exact step_of_tick hs (tick_burns (running hs) hn)

end
end

section
/-! SUPPORT. A CPU bus access by region of the memory map (rules R61 to R67, R343, R345): when a read halts,
what it answers, and which reads have no side effect beyond the latch. -/

namespace Sys2Proof.Machine

theorem prgRamCapable_iff (m : MapperId) : prgRamCapable m = true ↔ m ∈ [.m000, .m001, .m004] := by
  cases m <;> decide

theorem prgRamCapable_eq_false_iff (m : MapperId) :
    prgRamCapable m = false ↔ m ∈ [.m002, .m003, .m007, .m011, .m066] := by
  cases m <;> decide

section
variable {a : Word}

theorem cartReadCpu_expansion (c : Cart) (h : a.toNat < 0x6000) : cartReadCpu c a = some 0x00 := if_pos h

theorem cartReadCpu_prgRam (c : Cart) (h : 0x6000 ≤ a.toNat) (h' : a.toNat < 0x8000) :
    cartReadCpu c a =
      if prgRamCapable c.mapper.id then some (readCell c.prgRam (a.toNat - 0x6000)) else none := by
  simp [cartReadCpu, Nat.not_lt.mpr h, h']

theorem cartReadCpu_rom (c : Cart) (h : 0x8000 ≤ a.toNat) :
    cartReadCpu c a = some (readCell c.prgRom (prgRomOffset c a)) := by
  have h6 : ¬ a.toNat < 0x6000 := by omega
  simp [cartReadCpu, h6, Nat.not_lt.mpr h]

theorem cartWriteCpu_expansion (c : Cart) (v : Byte) (h : a.toNat < 0x6000) : cartWriteCpu c a v = some c :=
  if_pos h

theorem cartWriteCpu_prgRam (c : Cart) (v : Byte) (h : 0x6000 ≤ a.toNat) (h' : a.toNat < 0x8000) :
    cartWriteCpu c a v =
      if prgRamCapable c.mapper.id then
        some { c with prgRam := writeCell c.prgRam (a.toNat - 0x6000) v }
      else none := by
  simp [cartWriteCpu, Nat.not_lt.mpr h, h']

theorem inTestMode_iff (a : Word) : inTestMode a = true ↔ 0x4018 ≤ a.toNat ∧ a.toNat ≤ 0x401F := by
  simp [inTestMode]

/-- An address past the I/O registers is below none of the ranges before them. -/
theorem above_io (h : 0x4018 ≤ a.toNat) :
    ¬ a.toNat < 0x2000 ∧ ¬ a.toNat < 0x4000 ∧ ¬ a.toNat ≤ 0x4017 := by omega

/-- The reads that complete: outside the test-mode range, and not of PRG-RAM a mapper does not have. -/
theorem readHalt_eq_none (s : State) (ht : a.toNat < 0x4018 ∨ 0x401F < a.toNat)
    (hc : a.toNat < 0x6000 ∨ 0x8000 ≤ a.toNat ∨ prgRamCapable s.cart.mapper.id = true) :
    readHalt a s = none := by
  have htest : ¬ inTestMode a = true := by rw [inTestMode_iff]; omega
  have hcart : (cartReadCpu s.cart a).isNone = false := by
    rcases Nat.lt_or_ge a.toNat 0x6000 with h6 | h6
    · rw [cartReadCpu_expansion _ h6]; rfl
    · rcases Nat.lt_or_ge a.toNat 0x8000 with h8 | h8
      · have hram : prgRamCapable s.cart.mapper.id = true := by
          rcases hc with h | h | h
          · omega
          · omega
          · exact h
        rw [cartReadCpu_prgRam _ h6 h8, if_pos hram]; rfl
      · rw [cartReadCpu_rom _ h8]; rfl
  simp [readHalt, htest, hcart]

/-- A read that completes: its value and side effects, then the latch. -/
theorem memRead_of_readHalt_none {s : State} (h : readHalt a s = none) :
    memRead a s = .ok (readValue a s).1 ((readValue a s).2.setOpenBus (readValue a s).1) := by
  simp only [memRead, h]

theorem memRead_of_readHalt_some {s : State} {r : HaltReason} (h : readHalt a s = some r) :
    memRead a s = .halt { s with halted := some r } := by
  simp only [memRead, h, raise_eq]

theorem readValue_port (s : State) (h : 0x2000 ≤ a.toNat) (h' : a.toNat < 0x4000) :
    readValue a s = ppuPortRead (portOf a) s := by
  simp [readValue, Nat.not_lt.mpr h, h']

theorem readValue_io (s : State) (h : 0x4000 ≤ a.toNat) (h' : a.toNat ≤ 0x4017) :
    readValue a s = ioRead a s := by
  have h2 : ¬ a.toNat < 0x2000 := by omega
  simp [readValue, h2, Nat.not_lt.mpr h, h']

theorem readValue_cart (s : State) (h : 0x4020 ≤ a.toNat) :
    readValue a s = ((cartReadCpu s.cart a).getD 0x00, s) := by
  simp [readValue, above_io (by omega : 0x4018 ≤ a.toNat)]

theorem memRead_testMode (s : State) (h : 0x4018 ≤ a.toNat) (h' : a.toNat ≤ 0x401F) :
    memRead a s = .halt { s with halted := some (.testModeAccess a .read) } :=
  memRead_of_readHalt_some (if_pos ((inTestMode_iff a).mpr ⟨h, h'⟩))

theorem memWrite_testMode (v : Byte) (s : State) (h : 0x4018 ≤ a.toNat) (h' : a.toNat ≤ 0x401F) :
    memWrite a v s = .halt { s.setOpenBus v with halted := some (.testModeAccess a .write) } := by
  simp [memWrite, writeValue, above_io h, h']

/-- A read of the cartridge window answers the cartridge's byte, if it has one. -/
theorem memRead_cart {s : State} {b : Byte} (h : 0x4020 ≤ a.toNat) (hb : cartReadCpu s.cart a = some b) :
    memRead a s = .ok b (s.setOpenBus b) := by
  have htest : ¬ inTestMode a = true := by rw [inTestMode_iff]; omega
  have hnone : readHalt a s = none := by simp [readHalt, htest, hb]
  rw [memRead_of_readHalt_none hnone, readValue_cart s h, hb]
  rfl

theorem memRead_cart_none {s : State} (h : 0x4020 ≤ a.toNat) (hb : cartReadCpu s.cart a = none) :
    memRead a s = .halt { s with halted := some (.unsupportedCartridgeAccess a .cpu .read) } := by
  have htest : ¬ inTestMode a = true := by rw [inTestMode_iff]; omega
  exact memRead_of_readHalt_some (by simp [readHalt, htest, h, hb])

/-- A write of the cartridge window is the cartridge's write after the latch. -/
theorem memWrite_cart {s : State} {v : Byte} {c : Cart} (h : 0x4020 ≤ a.toNat)
    (hc : cartWriteCpu s.cart a v = some c) :
    memWrite a v s = .ok () { s with bus := { s.bus with openBus := v }, cart := c } := by
  have htest : ¬ a.toNat ≤ 0x401F := by omega
  simp [memWrite, writeValue, above_io (by omega : 0x4018 ≤ a.toNat), htest, hc, State.setOpenBus]

theorem memWrite_cart_none {s : State} {v : Byte} (h : 0x4020 ≤ a.toNat)
    (hc : cartWriteCpu s.cart a v = none) :
    memWrite a v s =
      .halt { s.setOpenBus v with halted := some (.unsupportedCartridgeAccess a .cpu .write) } := by
  have htest : ¬ a.toNat ≤ 0x401F := by omega
  simp [memWrite, writeValue, above_io (by omega : 0x4018 ≤ a.toNat), htest, hc]

theorem peek_ram (s : State) (h : a.toNat < 0x2000) : peek a s = readCell s.bus.ram (ramIndex a) := if_pos h

theorem portOf_toNat (a : Word) : (portOf a).toNat = a.toNat % 8 := by
  simp [portOf, BitVec.extractLsb'_toNat]

theorem portOf_eq_iff (a : Word) (p : BitVec 3) : portOf a = p ↔ a.toNat % 8 = p.toNat := by
  rw [← portOf_toNat, BitVec.toNat_inj]

/-- A read of a port with no side effect: OAM's byte at port 4, the latch at a write-only port. -/
theorem ppuPortRead_quiet {p : BitVec 3} (s : State) (h2 : p ≠ 2) (h7 : p ≠ 7) :
    ppuPortRead p s = (if p = 4 then readCell s.ppu.oam s.ppu.oamAddr.toNat else s.bus.openBus, s) := by
  simp only [ppuPortRead, if_neg h2, if_neg h7]
  split <;> rfl

theorem ioRead_quiet (s : State) (h6 : a ≠ 0x4016) (h7 : a ≠ 0x4017) : ioRead a s = (s.bus.openBus, s) := by
  simp only [ioRead, if_neg h6, if_neg h7]

/-- The reads with a side effect beyond the latch (rule R71): PPUSTATUS, PPUDATA and the controller ports. -/
def HasReadEffect (a : Word) : Prop :=
  (0x2000 ≤ a.toNat ∧ a.toNat < 0x4000 ∧ a.toNat % 8 ∈ [2, 7]) ∨ a = 0x4016 ∨ a = 0x4017

/-- Any other read changes nothing but the latch, and reads the same with its value in the latch. -/
theorem readValue_quiet (s : State) (h : ¬ HasReadEffect a) :
    ∃ v, readValue a s = (v, s) ∧ readValue a (s.setOpenBus v) = (v, s.setOpenBus v) := by
  simp only [HasReadEffect, not_or] at h
  obtain ⟨hport, h6, h7⟩ := h
  rcases Nat.lt_or_ge a.toNat 0x2000 with hram | h2
  · exact ⟨_, if_pos hram, if_pos hram⟩
  rcases Nat.lt_or_ge a.toNat 0x4000 with h4 | h4
  · have hne : portOf a ≠ 2 ∧ portOf a ≠ 7 := by
      simp only [ne_eq, portOf_eq_iff]
      simp at hport ⊢
      omega
    simp only [readValue_port _ h2 h4, ppuPortRead_quiet _ hne.1 hne.2]
    exact ⟨_, rfl, by split <;> rfl⟩
  rcases Nat.lt_or_ge 0x4017 a.toNat with hc | hio
  · obtain ⟨h2', h4', hio'⟩ := above_io hc
    simp only [readValue, if_neg h2', if_neg h4', if_neg hio']
    exact ⟨_, rfl, rfl⟩
  · simp only [readValue_io _ h4 hio, ioRead_quiet _ h6 h7]
    exact ⟨_, rfl, rfl⟩

/-- A completed read without a listed side effect changes only the latch, and a second one nothing. -/
theorem memRead_quiet {s t : State} {v : Byte} (hq : ¬ HasReadEffect a) (h : memRead a s = .ok v t) :
    t = s.setOpenBus v ∧ memRead a t = .ok v t := by
  obtain ⟨b, hb, hagain⟩ := readValue_quiet s hq
  rcases memRead_cases a s with ⟨r, -, h'⟩ | ⟨hnone, h'⟩ <;> rw [h] at h'
  · cases h'
  · rw [hb] at h'
    cases h'
    have hnone' : readHalt a (s.setOpenBus b) = none := hnone
    refine ⟨rfl, ?_⟩
    rw [memRead_of_readHalt_none hnone', hagain]
    rfl

end

/-- A PPU-bus write leaves the CPU bus. -/
theorem ppuWrite_bus (a : PpuAddr) (v : Byte) (s : State) : (ppuWrite a v s).state.bus = s.bus := by
  unfold ppuWrite
  split
  · split <;> rfl
  · split <;> rfl

theorem ppuPortWrite_bus (port : BitVec 3) (v : Byte) (s : State) :
    (ppuPortWrite port v s).state.bus = s.bus := by
  have data : ((ppuWrite (busAddr s.ppu.v) v s).bind fun _ s =>
      .ok () { s with ppu.v := s.ppu.v + dataStep s.ppu }).state.bus = s.bus :=
    Act.bind_keeps (fun s t => t.bus = s.bus) (fun _ _ _ h k => Eq.trans k h) _ _ s (ppuWrite_bus _ v s)
      fun _ _ => rfl
  unfold ppuPortWrite
  iterate 7 (split; · rfl)
  exact data

theorem ioWrite_openBus (a : Word) (v : Byte) (s : State) : (ioWrite a v s).bus.openBus = s.bus.openBus := by
  unfold ioWrite
  repeat' split
  all_goals rfl

/-- Behind the latch, no write changes it. -/
theorem writeValue_openBus (a : Word) (v : Byte) (s : State) :
    (writeValue a v s).state.bus.openBus = s.bus.openBus := by
  unfold writeValue
  split
  · rfl
  · split
    · exact congrArg Bus.openBus (ppuPortWrite_bus _ v s)
    · split
      · exact ioWrite_openBus a v s
      · split
        · rfl
        · split <;> rfl

/-- A read of a write-only PPU port answers the latch (rule R64). -/
theorem memRead_writeOnlyPort {a : Word} (s : State) (h : 0x2000 ≤ a.toNat) (h' : a.toNat < 0x4000)
    (hp : a.toNat % 8 ∈ [0, 1, 3, 5, 6]) : memRead a s = .ok s.bus.openBus s := by
  have hne : portOf a ≠ 2 ∧ portOf a ≠ 4 ∧ portOf a ≠ 7 := by
    simp only [ne_eq, portOf_eq_iff]
    simp at hp ⊢
    omega
  obtain ⟨h2, h4, h7⟩ := hne
  rw [memRead_of_readHalt_none (readHalt_eq_none s (by omega) (by omega)), readValue_port s h h',
    ppuPortRead_quiet s h2 h7, if_neg h4]
  rfl

end Sys2Proof.Machine
end

section
/-! The CPU bus, O38, O39 and O40. -/

section

open Sys2Proof Sys2Proof.Machine

/-- Settles O38: both accesses below `$2000` go to the cell at the address modulo 0x800. -/
theorem ramIsMirrored : Obligations.RamIsMirrored := by
  unfold Obligations.RamIsMirrored
  refine ⟨fun a s h => ?_, fun s a b v hwf ha hb => ⟨writeCell s.bus.ram (ramIndex a) v, ?_⟩⟩
  · rw [memRead_ram s h, ramIndex_eq]
    rfl
  · refine ⟨memWrite_ram v s ha, fun hab => ?_, fun hab => ?_⟩
    · have hcell : ramIndex b = ramIndex a := by rw [ramIndex_eq, ramIndex_eq, hab]
      rw [memRead_ram _ hb, hcell, readCell_writeCell_same _ v hwf]
      rfl
    · have hcell : ramIndex b ≠ ramIndex a := by rw [ramIndex_eq, ramIndex_eq]; exact Ne.symm hab
      rw [peek_ram _ hb, peek_ram _ hb]
      exact readCell_writeCell_other _ v hcell

/-- Settles O39: the latch after every access, and the addresses whose reads answer it. -/
theorem openBusLatch : Obligations.OpenBusLatch := by
  unfold Obligations.OpenBusLatch
  refine ⟨fun a s t v h => ?_, fun a s t h => ?_, fun a s v => writeValue_openBus a v (s.setOpenBus v),
    fun a s h h' hp => memRead_writeOnlyPort s h h' hp, fun a s h h' => ?_, fun a s v h h' h4 h6 => ?_,
    fun s v => ?_⟩
  · rcases memRead_cases a s with ⟨r, -, h'⟩ | ⟨-, h'⟩ <;> rw [h] at h' <;> cases h'
    rfl
  · obtain ⟨r, -, rfl⟩ := memRead_halt_eq h
    rfl
  · have hne : a ≠ 0x4016 ∧ a ≠ 0x4017 := by
      constructor <;> rintro rfl <;> exact absurd h' (by decide)
    rw [memRead_of_readHalt_none (readHalt_eq_none s (by omega) (by omega)), readValue_io s h (by omega),
      ioRead_quiet s hne.1 hne.2]
    rfl
  · rw [memWrite_io v s h h', ioWrite, if_neg h4, if_neg h6]
    rfl
  · exact ⟨_, memWrite_port v s (by decide) (by decide), memRead_writeOnlyPort _ (by decide) (by decide) (by decide)⟩

/-- Settles O40: the three kinds of forbidden access, and that every other read completes. -/
theorem forbiddenAccessesHalt : Obligations.ForbiddenAccessesHalt := by
  unfold Obligations.ForbiddenAccessesHalt
  refine ⟨fun a s h h' v => ⟨memRead_testMode s h h', memWrite_testMode v s h h'⟩, fun a s h h' hm v => ?_,
    fun a s v ha hchr => ?_, fun a s ht hc => ?_⟩
  · have hno : prgRamCapable s.cart.mapper.id = false := (prgRamCapable_eq_false_iff _).mpr hm
    have hread : cartReadCpu s.cart a = none := by rw [cartReadCpu_prgRam _ h h', hno]; rfl
    have hwrite : cartWriteCpu s.cart a v = none := by rw [cartWriteCpu_prgRam _ v h h', hno]; rfl
    exact ⟨memRead_cart_none (by omega) hread, memWrite_cart_none (by omega) hwrite⟩
  · have hno : cartWritePpu s.cart a v = none := if_neg (by omega)
    simp [ppuWrite, ha, hno]
  · rw [← prgRamCapable_iff] at hc
    exact ⟨_, _, memRead_of_readHalt_none (readHalt_eq_none s ht hc)⟩

end
end

section
/-! SUPPORT. The PPU bus by region (rules R79 to R83, R344): what an access of each region reads and stores,
and what a read answers after a write. -/

namespace Sys2Proof.Machine

/-- The PRG-ROM cell of an address in window `k`, in numbers (rule R343). -/
theorem prgRomOffset_eq (c : Cart) {a : Word} {k : Fin 4} (h : a.toNat / 0x2000 = 4 + k.val) :
    prgRomOffset c a = c.prgOff[k] + a.toNat % 0x2000 := by
  have hk : (a.extractLsb' 13 2).toFin = k := by
    apply Fin.ext
    have := k.isLt
    simp only [BitVec.val_toFin, BitVec.extractLsb'_toNat, Nat.shiftRight_eq_div_pow]
    omega
  simp only [prgRomOffset, hk, BitVec.extractLsb'_toNat, Nat.shiftRight_zero]

/-- `readCell_writeCell` with the test of `samePpuByte`. -/
theorem readCell_writeCell_beq {w : Nat} {m : Store w} (k j : Nat) (u : BitVec w) (h : storeWf m = true) :
    readCell (writeCell m k u) j = if k == j then u else readCell m j := by
  rw [readCell_writeCell k j u h]
  simp only [beq_iff_eq, eq_comm (a := j) (b := k)]

section
variable {a b : PpuAddr}

theorem ppuRead_pattern (s : State) (h : a.toNat < 0x2000) :
    ppuRead s a = readCell s.cart.chr (chrOffset s.cart a) := if_pos h

theorem ppuRead_nametable (s : State) (h : 0x2000 ≤ a.toNat) (h' : a.toNat < 0x3F00) :
    ppuRead s a = readCell s.cart.ntRam (ntIndex s.cart a) := by
  simp only [ppuRead, if_neg (Nat.not_lt.mpr h), if_pos h']

theorem ppuRead_palette (s : State) (h : 0x3F00 ≤ a.toNat) :
    ppuRead s a = readCell s.ppu.palette (palIndex a) := by
  have h2 : ¬ a.toNat < 0x2000 := by omega
  simp only [ppuRead, if_neg h2, if_neg (Nat.not_lt.mpr h)]

theorem ppuWrite_pattern (v : Byte) {s : State} (h : a.toNat < 0x2000) (hram : s.cart.chrUnits = 0) :
    ppuWrite a v s =
      .ok () { s with cart := { s.cart with chr := writeCell s.cart.chr (chrOffset s.cart a) v } } := by
  simp only [ppuWrite, if_pos h, cartWritePpu, if_pos hram]

theorem ppuWrite_nametable (v : Byte) (s : State) (h : 0x2000 ≤ a.toNat) (h' : a.toNat < 0x3F00) :
    ppuWrite a v s =
      .ok () { s with cart := { s.cart with ntRam := writeCell s.cart.ntRam (ntIndex s.cart a) v } } := by
  simp only [ppuWrite, if_neg (Nat.not_lt.mpr h), if_pos h']

theorem ppuWrite_palette (v : Byte) (s : State) (h : 0x3F00 ≤ a.toNat) :
    ppuWrite a v s =
      .ok () { s with ppu := { s.ppu with palette := writeCell s.ppu.palette (palIndex a) v } } := by
  have h2 : ¬ a.toNat < 0x2000 := by omega
  simp only [ppuWrite, if_neg h2, if_neg (Nat.not_lt.mpr h)]

/-- Two nametable addresses of one cell are the same for reads and writes. -/
theorem nametable_mirror (v : Byte) (s : State) (ha : 0x2000 ≤ a.toNat ∧ a.toNat < 0x3F00)
    (hb : 0x2000 ≤ b.toNat ∧ b.toNat < 0x3F00) (h : ntIndex s.cart b = ntIndex s.cart a) :
    ppuRead s b = ppuRead s a ∧ ppuWrite b v s = ppuWrite a v s := by
  rw [ppuRead_nametable s hb.1 hb.2, ppuRead_nametable s ha.1 ha.2, ppuWrite_nametable v s hb.1 hb.2,
    ppuWrite_nametable v s ha.1 ha.2, h]
  exact ⟨rfl, rfl⟩

/-- Two palette addresses of one cell are the same for reads and writes. -/
theorem palette_mirror (v : Byte) (s : State) (ha : 0x3F00 ≤ a.toNat) (hb : 0x3F00 ≤ b.toNat)
    (h : palIndex b = palIndex a) : ppuRead s b = ppuRead s a ∧ ppuWrite b v s = ppuWrite a v s := by
  rw [ppuRead_palette s hb, ppuRead_palette s ha, ppuWrite_palette v s hb, ppuWrite_palette v s ha, h]
  exact ⟨rfl, rfl⟩

/-- A read after a write to a pattern cell. -/
theorem ppuRead_after_pattern (s : State) (v : Byte) (ha : a.toNat < 0x2000) (hwf : storeWf s.cart.chr = true) :
    ppuRead { s with cart := { s.cart with chr := writeCell s.cart.chr (chrOffset s.cart a) v } } b =
      if samePpuByte s.cart a b then v else ppuRead s b := by
  by_cases hb : b.toNat < 0x2000
  · rw [ppuRead_pattern _ hb, ppuRead_pattern _ hb]
    simp [samePpuByte, ha, hb, readCell_writeCell_beq _ _ _ hwf, chrOffset]
  · simp [samePpuByte, ha, hb, ppuRead, ntIndex]

/-- A read after a write to a nametable cell. -/
theorem ppuRead_after_nametable (s : State) (v : Byte) (h : 0x2000 ≤ a.toNat) (h' : a.toNat < 0x3F00)
    (hwf : storeWf s.cart.ntRam = true) :
    ppuRead { s with cart := { s.cart with ntRam := writeCell s.cart.ntRam (ntIndex s.cart a) v } } b =
      if samePpuByte s.cart a b then v else ppuRead s b := by
  by_cases hb : 0x2000 ≤ b.toNat ∧ b.toNat < 0x3F00
  · obtain ⟨hb2, hb3⟩ := hb
    rw [ppuRead_nametable _ hb2 hb3, ppuRead_nametable _ hb2 hb3]
    simp [samePpuByte, Nat.not_lt.mpr h, h', hb2, hb3, readCell_writeCell_beq _ _ _ hwf, ntIndex]
  · have hother : samePpuByte s.cart a b = false := by
      simp only [samePpuByte, if_neg (Nat.not_lt.mpr h), if_pos h', Bool.and_eq_false_iff,
        decide_eq_false_iff_not]
      exact .inl (by omega)
    rw [hother]
    rcases Nat.lt_or_ge b.toNat 0x2000 with hb2 | hb2
    · rw [ppuRead_pattern _ hb2]
      exact (ppuRead_pattern s hb2).symm
    · have hb3 : 0x3F00 ≤ b.toNat := by omega
      rw [ppuRead_palette _ hb3]
      exact (ppuRead_palette s hb3).symm

/-- A read after a write to a palette cell. -/
theorem ppuRead_after_palette (s : State) (v : Byte) (h : 0x3F00 ≤ a.toNat)
    (hwf : storeWf s.ppu.palette = true) :
    ppuRead { s with ppu := { s.ppu with palette := writeCell s.ppu.palette (palIndex a) v } } b =
      if samePpuByte s.cart a b then v else ppuRead s b := by
  have h2 : ¬ a.toNat < 0x2000 := by omega
  by_cases hb : 0x3F00 ≤ b.toNat
  · rw [ppuRead_palette _ hb, ppuRead_palette _ hb]
    simp [samePpuByte, h2, Nat.not_lt.mpr h, hb, readCell_writeCell_beq _ _ _ hwf]
  · simp [samePpuByte, h2, Nat.not_lt.mpr h, hb, ppuRead, Nat.lt_of_not_le hb]

/-- A PPU-bus write outside CHR-ROM stores its byte in one cell of CHR-RAM, nametable RAM or the palette, and
a read answers it at every address of that cell. -/
theorem ppuWrite_stores (v : Byte) (s : State) (h : 0x2000 ≤ a.toNat ∨ s.cart.chrUnits = 0) :
    ∃ chr ntRam palette : Memory,
      let t : State := { s with
        cart := { s.cart with chr := chr, ntRam := ntRam }
        ppu := { s.ppu with palette := palette } }
      ppuWrite a v s = .ok () t ∧
      (storeWf s.cart.chr = true → storeWf s.cart.ntRam = true → storeWf s.ppu.palette = true →
        ∀ b : PpuAddr, ppuRead t b = if samePpuByte s.cart a b then v else ppuRead s b) := by
  rcases Nat.lt_or_ge a.toNat 0x2000 with h2 | h2
  · have hram : s.cart.chrUnits = 0 := by omega
    exact ⟨_, _, _, ppuWrite_pattern v h2 hram, fun hchr _ _ b => ppuRead_after_pattern s v h2 hchr⟩
  rcases Nat.lt_or_ge a.toNat 0x3F00 with h3 | h3
  · exact ⟨_, _, _, ppuWrite_nametable v s h2 h3, fun _ hnt _ b => ppuRead_after_nametable s v h2 h3 hnt⟩
  · exact ⟨_, _, _, ppuWrite_palette v s h3, fun _ _ hpal b => ppuRead_after_palette s v h3 hpal⟩

end

/-- A write of PRG-RAM is read back and leaves every other byte (rule R343). -/
theorem memWrite_prgRam {a : Word} (v : Byte) {s : State} (h : 0x6000 ≤ a.toNat) (h' : a.toNat < 0x8000)
    (hm : prgRamCapable s.cart.mapper.id = true) :
    ∃ ram : Memory,
      let t : State := { s with
        bus := { s.bus with openBus := v }
        cart := { s.cart with prgRam := ram } }
      memWrite a v s = .ok () t ∧
      (storeWf s.cart.prgRam = true → memRead a t = .ok v t ∧
        ∀ k : Nat, k ≠ a.toNat - 0x6000 → readCell ram k = readCell s.cart.prgRam k) := by
  have hw : cartWriteCpu s.cart a v =
      some { s.cart with prgRam := writeCell s.cart.prgRam (a.toNat - 0x6000) v } := by
    rw [cartWriteCpu_prgRam _ v h h', if_pos hm]
  refine ⟨writeCell s.cart.prgRam (a.toNat - 0x6000) v, memWrite_cart (by omega) hw, fun hwf => ⟨?_, fun k hk => ?_⟩⟩
  · refine memRead_cart (by omega) ?_
    rw [cartReadCpu_prgRam _ h h', if_pos hm, readCell_writeCell_same _ v hwf]
  · exact readCell_writeCell_other _ v hk

end Sys2Proof.Machine
end

section
/-! The cartridge window and the PPU bus, O41 and O45. -/

section

open Sys2Proof Sys2Proof.Machine

/-- Settles O41: quiet reads are idempotent; then the cartridge window and the PPU bus region by region. -/
theorem otherReadsAreIdempotent : Obligations.OtherReadsAreIdempotent := by
  unfold Obligations.OtherReadsAreIdempotent
  refine ⟨fun a s t v h hport h6 h7 => ?_, fun a s => ⟨fun h h' => ?_, fun h h' hm => ?_, fun k hk => ?_,
    fun h v => memWrite_mapper v s h⟩, fun a s => ⟨fun k hk => ?_, fun q h h' hq => ?_, fun h => ?_,
    fun v h => ppuWrite_stores v s h⟩⟩
  · have hq : ¬ HasReadEffect a := by
      rintro (h | h | h)
      · exact hport h
      · exact h6 h
      · exact h7 h
    exact memRead_quiet hq h
  · exact ⟨memRead_cart h (cartReadCpu_expansion _ h'), fun v => memWrite_cart h (cartWriteCpu_expansion _ v h')⟩
  · rw [← prgRamCapable_iff] at hm
    refine ⟨memRead_cart (by omega) ?_, fun v => memWrite_prgRam v h h' hm⟩
    rw [cartReadCpu_prgRam _ h h', if_pos hm]
  · have h8 : 0x8000 ≤ a.toNat := by omega
    refine memRead_cart (by omega) ?_
    rw [cartReadCpu_rom _ h8, prgRomOffset_eq _ hk]
  · have h2 : a.toNat < 0x2000 := by omega
    rw [ppuRead_pattern s h2, chrOffset_eq _ hk]
  · rw [ppuRead_nametable s h h', ntIndex_eq _ hq]
  · rw [ppuRead_palette s h, palIndex_eq]

/-- Settles O45: mirrors are addresses of one cell. -/
theorem ppuBusMirrors : Obligations.PpuBusMirrors := by
  unfold Obligations.PpuBusMirrors
  refine fun s v a b => ⟨fun h h' hab => ?_, fun ha hb hab => ?_, fun ha hb hmem hab => ?_⟩
  · let q : Fin 4 := ⟨a.toNat / 0x400 % 4, Nat.mod_lt _ (by decide)⟩
    have hbq : b.toNat / 0x400 % 4 = q.val := by simp only [q]; omega
    have hcell : ntIndex s.cart b = ntIndex s.cart a := by
      rw [ntIndex_eq s.cart hbq, ntIndex_eq s.cart (q := q) rfl]
      omega
    exact nametable_mirror v s ⟨h, by omega⟩ ⟨by omega, by omega⟩ hcell
  · exact palette_mirror v s ha hb (by rw [palIndex_eq, palIndex_eq, hab])
  · refine palette_mirror v s ha hb ?_
    rw [palIndex_eq, palIndex_eq, hab]
    simp only [List.mem_cons, List.not_mem_nil, or_false] at hmem ⊢
    rcases hmem with h | h | h | h <;> rw [h] <;> rfl

end
end

section
/-! SUPPORT. OAM DMA from a page of plain storage (rule R91): the copy as a run of writes to OAM. -/

namespace Sys2Proof.Machine

/-- OAM after the bytes `src i`, `src (i + 1)`, … have gone, `n` of them, to the cells from `k` up, wrapping. -/
def copiedOam (src : Nat → Byte) : Nat → Nat → Byte → Memory → Memory
  | 0, _, _, m => m
  | n + 1, i, k, m => copiedOam src n (i + 1) (k + 1) (writeCell m k.toNat (src i))

/-- At most 256 bytes do not overlap: the cell `d` places after the first holds byte `d` of the copy. -/
theorem readCell_copiedOam (src : Nat → Byte) {n : Nat} (hn : n ≤ 256) (i : Nat) (k : Byte) {m : Memory}
    (hwf : storeWf m = true) (c : Byte) :
    readCell (copiedOam src n i k m) c.toNat =
      if (c - k).toNat < n then src (i + (c - k).toNat) else readCell m c.toNat := by
  induction n generalizing i k m with
  | zero => rfl
  | succ n ih =>
    rw [copiedOam, ih (by omega) (i + 1) (k + 1) (storeWf_writeCell _ _ hwf)]
    by_cases hc : c = k
    · subst hc
      have hlast : (c - (c + 1)).toNat = 255 := by bv_omega
      rw [if_neg (by omega), readCell_writeCell_same _ _ hwf]
      simp
    · have hnext : (c - k).toNat = (c - (k + 1)).toNat + 1 := by bv_omega
      rw [readCell_writeCell_other _ _ (mt BitVec.eq_of_toNat_eq hc), hnext]
      simp only [Nat.add_lt_add_iff_right, Nat.add_assoc, Nat.add_comm 1]

theorem wordOf_toNat (lo hi : Byte) : (wordOf lo hi).toNat = hi.toNat * 256 + lo.toNat := by
  rw [wordOf, BitVec.toNat_append, Nat.shiftLeft_eq, Nat.mul_comm, ← Nat.two_pow_add_eq_or_of_lt lo.isLt,
    Nat.mul_comm]

/-- Plain storage begins and ends at page boundaries: one byte of a page is backed if all are. -/
theorem backed_page (lo lo' hi : Byte) (s : State) : backed (wordOf lo hi) s = backed (wordOf lo' hi) s := by
  have h := wordOf_toNat lo hi
  have h' := wordOf_toNat lo' hi
  have hlo := lo.isLt
  have hlo' := lo'.isLt
  have edge : ∀ p : Nat, (wordOf lo hi).toNat < p * 256 ↔ (wordOf lo' hi).toNat < p * 256 := by omega
  have e2 := edge 0x20
  have e6 := edge 0x60
  have e8 := edge 0x80
  simp only [backed, inPrgRamWindow, ← Nat.not_lt]
  simp [e2, e6, e8]

/-- Byte `i` of the DMA source page. -/
def dmaSource (s : State) (i : Nat) : Byte := peek (wordOf (BitVec.ofNat 8 i) s.bus.dmaPage) s

/-- The copy of one byte, and the rest of the copy after it. -/
theorem dmaCopy_step (n i : Nat) (s : State) (h : backed (wordOf 0x00 s.bus.dmaPage) s = true) :
    dmaCopy (n + 1) i s = dmaCopy n (i + 1) { s with
      bus := { s.bus with openBus := dmaSource s i }
      ppu := writeOam (dmaSource s i) s.ppu } := by
  rw [dmaCopy, memRead_backed ((backed_page _ 0x00 _ s).trans h)]
  rfl

/-- Copying a run of at least one byte from a page of plain storage. -/
theorem dmaCopy_backed (n i : Nat) (s : State) (h : backed (wordOf 0x00 s.bus.dmaPage) s = true) :
    dmaCopy (n + 1) i s = .ok () { s with
      bus := { s.bus with openBus := dmaSource s (i + n) }
      ppu := { s.ppu with
        oam := copiedOam (dmaSource s) (n + 1) i s.ppu.oamAddr s.ppu.oam
        oamAddr := s.ppu.oamAddr + BitVec.ofNat 8 (n + 1) } } := by
  induction n generalizing i s with
  | zero => rw [dmaCopy_step 0 i s h]; rfl
  | succ n ih =>
    have hcount : s.ppu.oamAddr + 1 + BitVec.ofNat 8 (n + 1) = s.ppu.oamAddr + BitVec.ofNat 8 (n + 1 + 1) := by
      bv_omega
    have hlast : i + 1 + n = i + (n + 1) := by omega
    rw [dmaCopy_step (n + 1) i s h, ih (i + 1)]
    · simp only [writeOam, hcount, hlast]
      rfl
    · exact h

end Sys2Proof.Machine
end

section
/-! OAM DMA, O43. -/

section

open Sys2Proof Sys2Proof.Machine

/-- Settles O43: the request, and the copy of all 256 bytes, which brings `oam_addr` back to where it was. -/
theorem oamDmaCopiesThePage : Obligations.OamDmaCopiesThePage := by
  unfold Obligations.OamDmaCopiesThePage
  refine ⟨fun s v => memWrite_io v s (by decide) (by decide), fun s hrun hwf hpage => ?_⟩
  refine ⟨copiedOam (dmaSource s) 256 0 s.ppu.oamAddr s.ppu.oam, ?_, fun i => ?_⟩
  · have hback : s.ppu.oamAddr + BitVec.ofNat 8 256 = s.ppu.oamAddr := BitVec.add_zero _
    simp only [oamDma, hrun, dmaCopy_backed 255 0 s hpage, hback, dmaCycles, Nat.add_assoc]
    rfl
  · have hdist : s.ppu.oamAddr + i - s.ppu.oamAddr = i := by bv_omega
    rw [readCell_copiedOam _ (by decide) 0 _ hwf, hdist, if_pos i.isLt]
    simp [dmaSource]

end
end

section
/-! SUPPORT. The fetch as the bus reads of the instruction's bytes (rules R140, R157): a read commutes with a
move of `PC`, so the bytes can be read first and `PC` moved past them after. -/

namespace Sys2Proof.Machine

/-- An operation's answer with `PC` at `p`, halted or not. -/
def Act.withPc {α : Type} (p : Word) : Act α → Act α
  | .ok v s => .ok v (s.setPc p)
  | .halt s => .halt (s.setPc p)

/-- No bus read depends on `PC` or moves it. -/
theorem memRead_setPc (a p : Word) (s : State) : memRead a (s.setPc p) = (memRead a s).withPc p := by
  have hvalue : readValue a (s.setPc p) = ((readValue a s).1, (readValue a s).2.setPc p) := by
    unfold readValue ppuPortRead ioRead
    simp only [State.setPc_bus, State.setPc_ppu, State.setPc_cart, State.setPc_buttons1, State.setPc_buttons2]
    repeat' split
    all_goals rfl
  have hhalt : readHalt a (s.setPc p) = readHalt a s := rfl
  cases h : readHalt a s with
  | none => rw [memRead_of_readHalt_none h, memRead_of_readHalt_none (hhalt.trans h), hvalue]; rfl
  | some r => rw [memRead_of_readHalt_some h, memRead_of_readHalt_some (hhalt.trans h)]; rfl

section
variable {q : Word} {s t : State} {b : Byte}

theorem fetch_of_ok (h : memRead q s = .ok b t) : fetch (s.setPc q) = .ok b (t.setPc (q + 1)) := by
  simp only [fetch, State.setPc_pc, memRead_setPc, h, Act.withPc, Act.bind_ok]
  rfl

theorem fetch_of_halt (h : memRead q s = .halt t) : fetch (s.setPc q) = .halt (t.setPc q) := by
  simp only [fetch, State.setPc_pc, memRead_setPc, h, Act.withPc, Act.bind_halt]

/-- The byte of an Immediate operand is read with `PC` past it, whether the read halts or not (rule R143). -/
theorem fetchImmediate_eq (q : Word) (s : State) : fetchImmediate (s.setPc q) = (memRead q s).withPc (q + 1) :=
  memRead_setPc q (q + 1) s

end

theorem readBytes_pc {n : Nat} {a : Word} {s u : State} {bytes : List Byte}
    (h : readBytes n a s = .ok bytes u) : u.cpu.pc = s.cpu.pc := by
  induction n generalizing a s bytes with
  | zero => cases h; rfl
  | succ n ih =>
    simp only [readBytes, Act.bind_eq_ok] at h
    obtain ⟨b, t, hb, bs, u', hbs, hu⟩ := h
    cases hu
    exact (ih hbs).trans (congrArg Cpu.pc (memRead_frame_ok hb).cpu)

/-- Reading one byte more, from the front. -/
theorem readBytes_cons {q : Word} {s u : State} {b : Byte} {bs : List Byte}
    (h : readBytes (b :: bs).length q s = .ok (b :: bs) u) :
    ∃ t, memRead q s = .ok b t ∧ readBytes bs.length (q + 1) t = .ok bs u := by
  simp only [List.length_cons, readBytes, Act.bind_eq_ok] at h
  obtain ⟨b', t, hb, bs', u', hbs, hu⟩ := h
  cases hu
  exact ⟨t, hb, hbs⟩

theorem readBytes_nil {q : Word} {s u : State} (h : readBytes ([] : List Byte).length q s = .ok [] u) :
    u = s := by
  cases h
  rfl

/-- An opcode byte with two operand bytes is not of an Immediate instruction. -/
theorem not_immediate_of_two {op : Byte} (h : operandBytesAfter op = 2) :
    (rowAt op).map Row.mode ≠ some .immediate := by
  unfold operandBytesAfter at h
  cases hr : rowAt op with
  | none => simp
  | some r =>
    rw [hr] at h
    intro hm
    simp only [Option.map_some, Option.some.injEq] at hm
    simp only [hm] at h
    exact absurd h (by decide)

/-- What decodes with no byte left over: an opcode byte and as many operand bytes as it takes. -/
theorem decode_eq_ok_nil {bytes : List Byte} {i : Instr} (h : decode bytes = .ok (i, [])) :
    (∃ op, bytes = [op] ∧ operandBytesAfter op = 0 ∧ i = instrAt op 0 0) ∨
    (∃ op b, bytes = [op, b] ∧ operandBytesAfter op = 1 ∧ i = instrAt op b 0) ∨
    ∃ op b c, bytes = [op, b, c] ∧ operandBytesAfter op = 2 ∧ i = instrAt op b c := by
  unfold decode at h
  split at h
  · cases h
  · next op rest =>
    split at h
    · next h0 => cases h; exact .inl ⟨op, rfl, h0, rfl⟩
    · next b rest' h1 => cases h; exact .inr (.inl ⟨op, b, rfl, h1, rfl⟩)
    · next b c rest' h2 => cases h; exact .inr (.inr ⟨op, b, c, rfl, h2, rfl⟩)
    · cases h

theorem operandBytesAfter_le (op : Byte) : operandBytesAfter op ≤ 2 := by
  unfold operandBytesAfter
  split
  · exact Nat.zero_le 2
  · exact Laws.Encoding.operandLength_le _

/-- What does not decode: no byte, or an opcode byte with too few operand bytes. -/
theorem decode_eq_error {bytes : List Byte} {e : DecodeError} (h : decode bytes = .error e) :
    bytes = [] ∨ (∃ op, bytes = [op] ∧ operandBytesAfter op = 1) ∨
    (∃ op, bytes = [op] ∧ operandBytesAfter op = 2) ∨ ∃ op b, bytes = [op, b] ∧ operandBytesAfter op = 2 := by
  cases bytes with
  | nil => exact .inl rfl
  | cons op rest =>
    have hle := operandBytesAfter_le op
    have hcount : operandBytesAfter op = 0 ∨ operandBytesAfter op = 1 ∨ operandBytesAfter op = 2 := by omega
    rcases hcount with h0 | h1 | h2
    · simp [decode, h0] at h
    · cases rest with
      | nil => exact .inr (.inl ⟨op, rfl, h1⟩)
      | cons b rest => simp [decode, h1] at h
    · rcases rest with _ | ⟨b, _ | ⟨c, rest⟩⟩
      · exact .inr (.inr (.inl ⟨op, rfl, h2⟩))
      · exact .inr (.inr (.inr ⟨op, b, rfl, h2⟩))
      · simp [decode, h2] at h

section
variable {op b : Byte} {q : Word} {s t u : State}

theorem fetchInstr_of_ok (h : memRead q s = .ok op t) :
    fetchInstr (s.setPc q) = fetchOperands op (t.setPc (q + 1)) := by
  rw [fetchInstr, fetch_of_ok h, Act.bind_ok]

theorem fetchOperands_none (h0 : operandBytesAfter op = 0) (s : State) :
    fetchOperands op s = .ok (instrAt op 0 0) s := by
  simp only [fetchOperands, h0]

theorem fetchOperands_one (h1 : operandBytesAfter op = 1) (h : memRead q s = .ok b t) :
    fetchOperands op (s.setPc q) = .ok (instrAt op b 0) (t.setPc (q + 1)) := by
  simp only [fetchOperands, h1, fetchImmediate_eq, fetch_of_ok h, h, Act.withPc, ite_self, Act.bind_ok]

/-- The only operand byte halts: with `PC` past it for an Immediate operand, at it for any other. -/
theorem fetchOperands_one_halt (h1 : operandBytesAfter op = 1) (h : memRead q s = .halt t) :
    fetchOperands op (s.setPc q) =
      .halt (t.setPc (q + if (rowAt op).map Row.mode = some .immediate then 1 else 0)) := by
  simp only [fetchOperands, h1, fetchImmediate_eq, fetch_of_halt h, h, Act.withPc]
  split
  · rfl
  · rw [show q + 0 = q from BitVec.add_zero q]
    rfl

theorem fetchOperands_two (h2 : operandBytesAfter op = 2) (h : memRead q s = .ok b t) :
    fetchOperands op (s.setPc q) =
      (fetch (t.setPc (q + 1))).bind fun c s => .ok (instrAt op b c) s := by
  simp only [fetchOperands, h2, fetch_of_ok h, Act.bind_ok]

theorem fetchOperands_two_halt (h2 : operandBytesAfter op = 2) (h : memRead q s = .halt t) :
    fetchOperands op (s.setPc q) = .halt (t.setPc q) := by
  simp only [fetchOperands, h2, fetch_of_halt h, Act.bind_halt]

end

/-- Where the bytes from `q` up decode, the fetch from `q` is their reads, with `PC` moved past them. -/
theorem fetchInstr_of_decode {bytes : List Byte} {q : Word} {s u : State} {i : Instr}
    (hb : readBytes bytes.length q s = .ok bytes u) (hd : decode bytes = .ok (i, [])) :
    fetchInstr (s.setPc q) = .ok i (u.setPc (q + BitVec.ofNat 16 bytes.length)) := by
  rcases decode_eq_ok_nil hd with ⟨op, rfl, h0, rfl⟩ | ⟨op, b, rfl, h1, rfl⟩ | ⟨op, b, c, rfl, h2, rfl⟩ <;>
    obtain ⟨s₁, hop, hb⟩ := readBytes_cons hb <;> rw [fetchInstr_of_ok hop]
  · rw [readBytes_nil hb, fetchOperands_none h0]
    rfl
  · obtain ⟨s₂, hone, hb⟩ := readBytes_cons hb
    rw [readBytes_nil hb, fetchOperands_one h1 hone, BitVec.add_assoc]
    rfl
  · obtain ⟨s₂, hone, hb⟩ := readBytes_cons hb
    obtain ⟨s₃, htwo, hb⟩ := readBytes_cons hb
    rw [readBytes_nil hb, fetchOperands_two h2 hone, fetch_of_ok htwo, BitVec.add_assoc, BitVec.add_assoc]
    rfl

/-- Where the bytes from `q` up lack one whose read halts, the fetch from `q` ends there (rule R246). -/
theorem fetchInstr_of_truncated {bytes : List Byte} {q : Word} {s t u : State} {e : DecodeError}
    (hb : readBytes bytes.length q s = .ok bytes u) (hd : decode bytes = .error e)
    (hh : memRead (q + BitVec.ofNat 16 bytes.length) u = .halt t) :
    fetchInstr (s.setPc q) = .halt (t.setPc (q + BitVec.ofNat 16 bytes.length +
      if (bytes.head?.bind rowAt).map Row.mode = some .immediate then 1 else 0)) := by
  rcases decode_eq_error hd with rfl | ⟨op, rfl, h1⟩ | ⟨op, rfl, h2⟩ | ⟨op, b, rfl, h2⟩
  · rw [readBytes_nil hb] at hh
    have hq : q + BitVec.ofNat 16 ([] : List Byte).length = q := BitVec.add_zero q
    rw [hq] at hh ⊢
    rw [fetchInstr, fetch_of_halt hh, Act.bind_halt]
    simp
  · obtain ⟨s₁, hop, hb⟩ := readBytes_cons hb
    rw [readBytes_nil hb] at hh
    rw [fetchInstr_of_ok hop]
    exact fetchOperands_one_halt h1 hh
  · obtain ⟨s₁, hop, hb⟩ := readBytes_cons hb
    have hq : q + BitVec.ofNat 16 [op].length = q + 1 := rfl
    rw [readBytes_nil hb, hq] at hh
    rw [fetchInstr_of_ok hop, fetchOperands_two_halt h2 hh, hq]
    simp [not_immediate_of_two h2]
  · obtain ⟨s₁, hop, hb⟩ := readBytes_cons hb
    obtain ⟨s₂, hone, hb⟩ := readBytes_cons hb
    have hq : q + BitVec.ofNat 16 [op, b].length = q + 1 + 1 := (BitVec.add_assoc q 1 1).symm
    rw [readBytes_nil hb, hq] at hh
    rw [fetchInstr_of_ok hop, fetchOperands_two h2 hone, fetch_of_halt hh, Act.bind_halt, hq]
    simp [not_immediate_of_two h2]

theorem runInstr_of_ok {i : Instr} {s t : State} (h : fetchInstr s = .ok i t) : runInstr s = exec i t := by
  simp only [runInstr, h]

theorem runInstr_of_halt {s t : State} (h : fetchInstr s = .halt t) : runInstr s = .next t := by
  simp only [runInstr, h]

/-- A tick at a boundary that takes no interrupt runs the instruction at `PC` (rules R240, R241). -/
theorem tick_runs {s t : State} (hs : s.halted = none) (h0 : s.cpu.remainingCycles = 0)
    (hn : s.cpu.nmiPending = false) (hi : s.cpu.irqPending = false ∨ flagI s.cpu.p = true)
    (h : runInstr { s with cpu := { s.cpu with irqPending := false } } = .next t) :
    tick s = .next (countTick t) := by
  have hmask : (s.cpu.irqPending && !flagI s.cpu.p) = false := by
    rcases hi with hi | hi <;> simp [hi]
  have hboundary : boundary s = .next t := by
    rw [boundary, if_neg (by simp [hn])]
    exact (if_neg (by simp [hmask])).trans h
  simp [tick, hs, h0, hboundary]

end Sys2Proof.Machine
end

section
/-! The step at a boundary, O37. -/

section

open Sys2Proof Sys2Proof.Machine

/-- Settles O37: the fetch as bus reads, then the instruction, or the halt that ends the step uncounted. -/
theorem stepRunsTheDecodedInstruction : Obligations.StepRunsTheDecodedInstruction := by
  unfold Obligations.StepRunsTheDecodedInstruction
  intro s u t bytes hs h0 hn hi hb length
  have hrun : (threeDots s).halted = none := by simp [threeDots, hs]
  have hpc := readBytes_pc hb
  rw [show u.cpu.pc = (threeDots s).cpu.pc from hpc]
  refine ⟨fun i hd hexec => step_of_tick hs (tick_runs hrun h0 hn hi ?_), fun e hd hhalt => ?_⟩
  · exact (runInstr_of_ok (fetchInstr_of_decode hb hd)).trans hexec
  · obtain ⟨r, -, ht⟩ := memRead_halt_eq hhalt
    have hstop : ∀ p : Word, (t.setPc p).halted.isSome = true := fun p => by rw [ht]; rfl
    have htick := tick_runs hrun h0 hn hi (runInstr_of_halt (fetchInstr_of_truncated hb hd hhalt))
    rw [step_of_tick hs htick, countTick_halted (hstop _), serveDma_of_halted (hstop _)]

end
end

section
/-! SUPPORT. The illegal opcode bytes: those the opcode map has no row for, and those that decode to no
instruction of the map. -/

namespace Sys2Proof

/-- A list of bytes as a bitmap: bit `n` is set exactly if byte `n` is in the list. -/
def byteMask (bytes : List Byte) : Nat := bytes.foldr (fun b mask => 2 ^ b.toNat ||| mask) 0

theorem byteMask_cons (a : Byte) (bytes : List Byte) :
    byteMask (a :: bytes) = 2 ^ a.toNat ||| byteMask bytes := rfl

theorem byteMask_append (bytes more : List Byte) :
    byteMask (bytes ++ more) = byteMask bytes ||| byteMask more := by
  induction bytes with
  | nil => exact (Nat.zero_or _).symm
  | cons a bytes ih => rw [List.cons_append, byteMask_cons, byteMask_cons, ih, Nat.or_assoc]

theorem testBit_byteMask (bytes : List Byte) (b : Byte) :
    (byteMask bytes).testBit b.toNat = decide (b ∈ bytes) := by
  induction bytes with
  | nil => simp [byteMask]
  | cons a bytes ih => simp [byteMask_cons, ih, Nat.testBit_two_pow, BitVec.toNat_inj, eq_comm]

/-- The bitmaps of the map's opcode bytes and of the list of rule R115 are complements in 256 bits. -/
theorem opcodeMask_xor_illegalMask :
    byteMask (opcodeTable.map Row.opcode) ^^^ byteMask illegalBytes = 2 ^ 256 - 1 := by
  simp only [opcodeTable, illegalBytes, List.map_append, byteMask_append]
  decide

/-- The illegal bytes are those without a row, because the two bitmaps are complements. -/
theorem rowAt_eq_none_iff (b : Byte) : rowAt b = none ↔ b ∈ illegalBytes := by
  have hnone : rowAt b = none ↔ b ∉ opcodeTable.map Row.opcode := by simp [rowAt]
  have hbit := congrArg (Nat.testBit · b.toNat) opcodeMask_xor_illegalMask
  simp only [Nat.testBit_xor, testBit_byteMask, Nat.testBit_two_pow_sub_one, b.isLt] at hbit
  rw [hnone]
  by_cases h : b ∈ opcodeTable.map Row.opcode <;> simpa [h] using hbit

theorem instrOf_ne_illegal (mn : Mnemonic) (o : Operand) (b : Byte) : instrOf mn o ≠ .illegal b := by
  cases mn <;> exact Instr.noConfusion

/-- No operand makes an opcode byte of the map illegal, and none makes another byte legal. -/
theorem instrAt_eq_illegal_iff (op op1 op2 b : Byte) :
    instrAt op op1 op2 = .illegal b ↔ rowAt op = none ∧ op = b := by
  unfold instrAt
  cases rowAt op with
  | none => simp
  | some r => simp [instrOf_ne_illegal]

/-- Whatever decodes is the instruction at its opcode byte. -/
theorem instrAt_of_decode {op : Byte} {bytes rest : List Byte} {i : Instr}
    (h : decode (op :: bytes) = .ok (i, rest)) : ∃ op1 op2, instrAt op op1 op2 = i := by
  unfold decode at h
  dsimp only at h
  split at h
  · cases h; exact ⟨0, 0, rfl⟩
  · next op1 _ _ => cases h; exact ⟨op1, 0, rfl⟩
  · next op1 op2 _ _ => cases h; exact ⟨op1, op2, rfl⟩
  · cases h

/-- A byte without a row stands alone (rule R115). -/
theorem decode_of_rowAt_none {b : Byte} (h : rowAt b = none) (rest : List Byte) :
    decode (b :: rest) = .ok (.illegal b, rest) := by
  have hlen : operandBytesAfter b = 0 := by simp [operandBytesAfter, h]
  simp [decode, hlen, instrAt_eq_illegal_iff, h]

theorem decode_illegal_iff (b : Byte) (rest : List Byte) :
    decode (b :: rest) = .ok (.illegal b, rest) ↔ b ∈ illegalBytes := by
  rw [← rowAt_eq_none_iff]
  constructor
  · intro h
    obtain ⟨op1, op2, hi⟩ := instrAt_of_decode h
    exact ((instrAt_eq_illegal_iff b op1 op2 b).mp hi).1
  · exact fun h => decode_of_rowAt_none h rest

/-- The halt of rules R115 and R245 is all an illegal byte does. -/
theorem Machine.exec_illegal (b : Byte) (s : Machine.State) :
    Machine.exec (.illegal b) s = .next { s with halted := some (.illegalOpcode b (s.cpu.pc - 1)) } := rfl

end Sys2Proof
end

section
/-! The illegal opcode bytes, O3. -/

open Sys2Proof

/-- Settles O3: the list by computation, the decoder by `decode_illegal_iff`, the halt by `exec_illegal`. -/
theorem illegalOpcodesHalt : Obligations.IllegalOpcodesHalt := by
  unfold Obligations.IllegalOpcodesHalt
  exact ⟨rfl, by decide, decode_illegal_iff, Machine.exec_illegal⟩

end

section
/-! SUPPORT. The address arithmetic of the modes in numbers (rules R144 to R155): zero and sign extension of
what is added, the page an index leaves, and the pointer byte that stays on its page. -/

namespace Sys2Proof.Machine

/-- A page-0 address with an index stays on page 0 (rules R145, R146). -/
theorem zext16_add (b i : Byte) : zext16 (b + i) = BitVec.ofNat 16 ((b.toNat + i.toNat) % 256) := by
  simp [zext16, BitVec.toNat_eq]

theorem add_zext16 (a : Word) (i : Byte) : a + zext16 i = BitVec.ofNat 16 (a.toNat + i.toNat) := by
  simp [zext16, BitVec.toNat_eq]

theorem add_sext16 (a : Word) (off : Byte) : a + sext16 off = BitVec.ofInt 16 (a.toNat + off.toInt) := by
  simp [sext16, BitVec.ofInt_add, BitVec.signExtend]

theorem loByte_toNat (a : Word) : (loByte a).toNat = a.toNat % 256 := by simp [loByte]

theorem hiByte_toNat (a : Word) : (hiByte a).toNat = a.toNat / 256 := by
  rw [hiByte, BitVec.extractLsb'_toNat, Nat.shiftRight_eq_div_pow]
  omega

theorem wordOf_eq (lo hi : Byte) : wordOf lo hi = BitVec.ofNat 16 (hi.toNat * 256 + lo.toNat) := by
  rw [← wordOf_toNat, BitVec.ofNat_toNat, BitVec.setWidth_eq]

/-- An index leaves the page of its base exactly when it carries out of the low byte (rule R154). -/
theorem crossed_add_zext16 (base : Word) (i : Byte) :
    crossed base (base + zext16 i) = decide (256 ≤ base.toNat % 256 + i.toNat) := by
  have hpage : hiByte base = hiByte (base + zext16 i) ↔
      base.toNat / 256 = (base.toNat + i.toNat) % 65536 / 256 := by
    rw [BitVec.toNat_eq, hiByte_toNat, hiByte_toNat, add_zext16, BitVec.toNat_ofNat]
  rw [crossed, Bool.eq_iff_iff, bne_iff_ne, decide_eq_true_iff, ne_eq, hpage]
  omega

theorem pageExtra_add_zext16 (penalty : Bool) (base : Word) (i : Byte) :
    pageExtra penalty base (base + zext16 i) =
      if penalty = true ∧ 256 ≤ base.toNat % 256 + i.toNat then 1 else 0 := by
  simp [pageExtra, crossed_add_zext16, and_comm]

/-- The two masks of rule R151 take the high byte of the pointer and the low byte of its successor. -/
theorem samePageNext_eq_wordOf (p : Word) : samePageNext p = wordOf (loByte (p + 1)) (hiByte p) := by
  unfold samePageNext wordOf loByte hiByte
  ext i hi
  rw [BitVec.getElem_append]
  interval_cases i <;> simp

theorem samePageNext_eq (p : Word) :
    samePageNext p = BitVec.ofNat 16 (p.toNat / 256 * 256 + (p.toNat + 1) % 256) := by
  have hlow : (loByte (p + 1)).toNat = (p.toNat + 1) % 256 := by
    rw [loByte_toNat, BitVec.toNat_add]
    exact Nat.mod_mod_of_dvd _ (by decide)
  rw [samePageNext_eq_wordOf, wordOf_eq, hiByte_toNat, hlow]

end Sys2Proof.Machine
end

section
/-! The direct addressing modes, O6. -/

section

open Sys2Proof Sys2Proof.Machine

/-- Settles O6: a mode without an index by computation, an indexed one by its sum and the page penalty by
`pageExtra_add_zext16`. -/
theorem directAddressingModes : Obligations.DirectAddressingModes := by
  unfold Obligations.DirectAddressingModes
  intro penalty b w s
  refine ⟨rfl, rfl, rfl, ?zeroPage, ?zeroPageX, ?zeroPageY, ?relative, rfl, ?absoluteX, ?absoluteY⟩
  case zeroPage => rw [BitVec.ofNat_toNat]; rfl
  case zeroPageX => rw [← zext16_add]; rfl
  case zeroPageY => rw [← zext16_add]; rfl
  case relative => rw [← add_sext16]; rfl
  case absoluteX => rw [← add_zext16, ← pageExtra_add_zext16]; rfl
  case absoluteY => rw [← add_zext16, ← pageExtra_add_zext16]; rfl

end
end

section
/-! SUPPORT. JMP in its two forms (rules R151, R221): the operand, or the word its pointer reads, goes to
`PC`. -/

namespace Sys2Proof.Machine

theorem exec_jmp_absolute (a : Word) (s : State) :
    exec (.jmp (.absolute a)) s = .next ((s.setPc a).setRemaining 3) := rfl

theorem exec_jmp_indirect (p : Word) (s : State) :
    exec (.jmp (.indirect p)) s =
      complete 5 ((readIndirectPointer p s).bind fun a t => .ok 0 (t.setPc a)) := by
  have hrow : rowFor .jmp (Operand.indirect p).mode = some ⟨0x6C, .jmp, .indirect, 5, false⟩ := rfl
  refine (operate_row hrow (fun r s => noExtra (jumpRef r s)) s).trans ?_
  simp only [address, jumpRef, noExtra_ok, Act.bind_assoc, Act.bind_ok]

/-- Once both bytes of the pointer are read, JMP has only the registers of the rules left to change. -/
theorem exec_jmp_indirect_of_ok {p : Word} {s s1 s2 : State} {lo hi : Byte} (hlo : memRead p s = .ok lo s1)
    (hhi : memRead (samePageNext p) s1 = .ok hi s2) :
    exec (.jmp (.indirect p)) s = .next ((s2.setPc (wordOf lo hi)).setRemaining 5) := by
  rw [exec_jmp_indirect, readIndirectPointer, hlo, Act.bind_ok, hhi]
  rfl

theorem exec_jmp_indirect_of_halt {p : Word} {s t : State} (h : memRead p s = .halt t) :
    exec (.jmp (.indirect p)) s = .next t := by
  rw [exec_jmp_indirect, readIndirectPointer, h]
  rfl

theorem exec_jmp_indirect_of_second_halt {p : Word} {s s1 t : State} {lo : Byte}
    (hlo : memRead p s = .ok lo s1) (hhi : memRead (samePageNext p) s1 = .halt t) :
    exec (.jmp (.indirect p)) s = .next t := by
  rw [exec_jmp_indirect, readIndirectPointer, hlo, Act.bind_ok, hhi]
  rfl

end Sys2Proof.Machine
end

section
/-! The jumps, O21. -/

section

open Sys2Proof Sys2Proof.Machine

/-- Settles O21: `samePageNext` is the statement's second pointer address, and the two reads leave the
registers to the jump. -/
theorem jumpsComplete : Obligations.JumpsComplete := by
  unfold Obligations.JumpsComplete
  refine ⟨exec_jmp_absolute, fun p s => ?_⟩
  rw [← samePageNext_eq]
  refine ⟨fun lo s1 hi s2 hlo hhi => ?_, fun t => exec_jmp_indirect_of_halt,
    fun lo s1 t => exec_jmp_indirect_of_second_halt⟩
  have hcpu : s2.cpu = s.cpu := (memRead_frame_ok hhi).cpu.trans (memRead_frame_ok hlo).cpu
  rw [exec_jmp_indirect_of_ok hlo hhi, wordOf_eq, ← hcpu]
  rfl

end
end

section
/-! SUPPORT. What running an operation comes to when it has no operand, and once its operand is named or read
(rules R140, R143, R240); a load and a store in those terms (rules R161 to R166). -/

namespace Sys2Proof.Machine

/-- A one-byte operation on the registers takes the base cycles of its row. -/
theorem operate_plain {mn : Mnemonic} {row : Row} (hrow : rowFor mn .implied = some row) (f : State → State)
    (s : State) : operate mn .implied (plain f) s = .next ((f s).setRemaining row.baseCycles) := by
  rw [operate_implied hrow]
  rfl

/-- The operand byte, once the mode has named the operand. -/
theorem operandByte_of_address {p : Bool} {o : Operand} {s s1 : State} {r : Ref} {e : Nat}
    (h : address p o s = .ok (r, e) s1) :
    operandByte p o s = (readRef r s1).bind fun m t => .ok (m, e) t := by
  rw [operandByte, h, Act.bind_ok]

theorem operandByte_halt {p : Bool} {o : Operand} {s t : State} (h : address p o s = .halt t) :
    operandByte p o s = .halt t := by
  rw [operandByte, h, Act.bind_halt]

/-- An operation that starts by reading its operand byte completes where the byte can be read and the rest
completes. -/
theorem operate_read_ok {mn : Mnemonic} {o : Operand} {row : Row} {f : Byte → State → Act Nat}
    {s s' t : State} {m : Byte} {e more : Nat} (hrow : rowFor mn o.mode = some row)
    (hop : operandByte row.pagePenalty o s = .ok (m, e) s') (hf : f m s' = .ok more t) :
    operate mn o (fun r s => (readRef r s).bind f) s = .next (t.setRemaining (row.baseCycles + (e + more))) := by
  rw [operate_read hrow, hop, Act.bind_ok, hf, Act.bind_ok, complete_ok]

/-- Running an operation, once the mode has named the operand. -/
theorem operate_of_address {mn : Mnemonic} {o : Operand} {row : Row} {s s1 : State} {r : Ref} {e : Nat}
    (hrow : rowFor mn o.mode = some row) (ha : address row.pagePenalty o s = .ok (r, e) s1)
    (f : Ref → State → Act Nat) :
    operate mn o f s = complete row.baseCycles ((f r s1).bind fun more t => .ok (e + more) t) := by
  rw [operate_row hrow, ha, Act.bind_ok]

/-- A load whose operand byte can be read puts it in its register, with N and Z from it. -/
theorem operate_load_ok {mn : Mnemonic} {o : Operand} {row : Row} {s s' : State} {m : Byte} {e : Nat}
    (hrow : rowFor mn o.mode = some row) (hop : operandByte row.pagePenalty o s = .ok (m, e) s')
    (set : Byte → State → State) :
    operate mn o (loadInto set) s =
      .next ((set m (s'.setP (setNZ m s'.cpu.p))).setRemaining (row.baseCycles + e)) :=
  operate_read_ok (more := 0) hrow hop rfl

/-- No store is charged the page penalty (rule R120, decision D4). -/
theorem rowFor_store_no_penalty {mn : Mnemonic} {mode : Mode} {row : Row} (h : rowFor mn mode = some row)
    (hmn : mn ∈ [Mnemonic.sta, .stx, .sty]) : row.pagePenalty = false := by
  have table : opcodeTable.all (fun r => !([Mnemonic.sta, .stx, .sty].contains r.mnemonic && r.pagePenalty)) :=
    by decide
  obtain ⟨hmem, rfl, -⟩ := rowFor_spec h
  simpa [hmn] using List.all_eq_true.mp table row hmem

/-- A store whose write does not halt is that write, with the cycle count set. -/
theorem operate_store_ok {mn : Mnemonic} {o : Operand} {row : Row} {get : Cpu → Byte} {s s1 s2 : State}
    {a : Word} {e : Nat} (hmn : mn ∈ [Mnemonic.sta, .stx, .sty]) (hrow : rowFor mn o.mode = some row)
    (ha : address row.pagePenalty o s = .ok (.memory a, e) s1) (hw : memWrite a (get s.cpu) s1 = .ok () s2) :
    operate mn o (storeFrom get) s =
      .next { s2 with cpu := { s.cpu with remainingCycles := row.baseCycles } } := by
  have he : e = 0 := address_no_penalty (rowFor_store_no_penalty hrow hmn ▸ ha)
  have h1 : s1.cpu = s.cpu := address_ok_cpu ha
  have h2 : s2.cpu = s.cpu := (memWrite_ok_cpu hw).trans h1
  rw [operate_of_address hrow ha, storeFrom, writeRef, h1, hw, he, ← h2]
  rfl

end Sys2Proof.Machine
end

section
/-! Loads and stores, O14 and O15. -/

section

open Sys2Proof Sys2Proof.Machine

/-- Settles O14: the operand byte is the mode's operand read, and a read leaves the registers to the load. -/
theorem loadsComplete : Obligations.LoadsComplete := by
  unfold Obligations.LoadsComplete
  refine ⟨fun _ _ _ => rfl, ?memory, fun p o s t => operandByte_halt, ?loads⟩
  case memory =>
    intro p o s s1 a e ha
    rw [operandByte_of_address ha]
    exact ⟨fun m t hr => by rw [readRef, hr, Act.bind_ok], fun t hr => by rw [readRef, hr, Act.bind_halt]⟩
  case loads =>
    intro o row s s' m e hop
    rw [← operandByte_ok_cpu hop]
    exact ⟨fun hrow => operate_load_ok hrow hop State.setA, fun hrow => operate_load_ok hrow hop State.setX,
      fun hrow => operate_load_ok hrow hop State.setY⟩

/-- Settles O15: each store is `operate_store_ok` for its register. -/
theorem storesComplete : Obligations.StoresComplete := by
  unfold Obligations.StoresComplete
  intro o row s s1 s2 a e ha
  exact ⟨fun hrow hw => operate_store_ok (by decide) hrow ha hw,
    fun hrow hw => operate_store_ok (by decide) hrow ha hw,
    fun hrow hw => operate_store_ok (by decide) hrow ha hw⟩

end
end

section
/-! SUPPORT. The bits of `P` after a flag write (rules R24, R160): the flag written, and every other bit as
before. -/

namespace Sys2Proof.Machine

/-- Writing the flag of bit `k` changes that bit alone. -/
theorem getLsbD_withFlag {mask : Byte} {k : Nat} (hmask : mask = BitVec.twoPow 8 k) (hk : k < 8) (b : Bool)
    (p : Byte) (i : Nat) : (withFlag mask b p).getLsbD i = if i = k then b else p.getLsbD i := by
  subst hmask
  by_cases hi : i = k
  · cases b <;> simp [withFlag, hi, hk]
  · cases b with
    | true => simp [withFlag, hi, Ne.symm hi]
    | false => simpa [withFlag, hi, Ne.symm hi] using BitVec.lt_of_getLsbD

/-- `SetNZ` writes bits 1 and 7. -/
theorem getLsbD_setNZ (v p : Byte) (i : Nat) :
    (setNZ v p).getLsbD i = if i = 7 then v.getLsbD 7 else if i = 1 then v == 0 else p.getLsbD i := by
  have hN : maskN = BitVec.twoPow 8 7 := by decide
  have hZ : maskZ = BitVec.twoPow 8 1 := by decide
  rw [setNZ, getLsbD_withFlag hN (by decide), getLsbD_withFlag hZ (by decide)]

/-- `Compare` writes bit 0 and what `SetNZ` writes for the difference. -/
theorem getLsbD_compareFlags (r m p : Byte) (i : Nat) :
    (compareFlags r m p).getLsbD i = if i = 7 then (r - m).getLsbD 7 else if i = 1 then r == m else
      if i = 0 then decide (m.toNat ≤ r.toNat) else p.getLsbD i := by
  have hC : maskC = BitVec.twoPow 8 0 := by decide
  have hZ : (r - m == 0) = (r == m) := by
    rw [Bool.eq_iff_iff, beq_iff_eq, beq_iff_eq]
    exact sub_eq_zero
  rw [compareFlags, getLsbD_setNZ, getLsbD_withFlag hC (by decide), hZ]

/-- Bytes that agree on every bit a mask selects agree under the mask. -/
theorem and_congr_of_getLsbD {p q mask : Byte} (h : ∀ i < 8, mask.getLsbD i = true → p.getLsbD i = q.getLsbD i) :
    p &&& mask = q &&& mask := by
  refine BitVec.eq_of_getLsbD_eq fun i hi => ?_
  rw [BitVec.getLsbD_and, BitVec.getLsbD_and]
  cases hm : mask.getLsbD i with
  | false => rw [Bool.and_false, Bool.and_false]
  | true => rw [h i hi hm]

end Sys2Proof.Machine
end

section
/-! The flags of SetNZ and Compare, O8. -/

section

open Sys2Proof Sys2Proof.Machine

/-- Settles O8: the bits of the two results are `getLsbD_setNZ` and `getLsbD_compareFlags`, and neither mask
selects a bit that is written. -/
theorem zeroNegativeAndCompareFlags : Obligations.ZeroNegativeAndCompareFlags := by
  unfold Obligations.ZeroNegativeAndCompareFlags
  refine ⟨fun v p => ⟨getLsbD_setNZ v p 1, getLsbD_setNZ v p 7, ?setNZ_rest⟩, fun r m p =>
    ⟨getLsbD_compareFlags r m p 0, getLsbD_compareFlags r m p 1, getLsbD_compareFlags r m p 7, ?compare_rest⟩⟩
  case setNZ_rest =>
    have kept : ∀ i < 8, (0x7D : Byte).getLsbD i = true → i ≠ 7 ∧ i ≠ 1 := by decide
    refine and_congr_of_getLsbD fun i hi hm => ?_
    obtain ⟨h7, h1⟩ := kept i hi hm
    rw [getLsbD_setNZ, if_neg h7, if_neg h1]
  case compare_rest =>
    have kept : ∀ i < 8, (0x7C : Byte).getLsbD i = true → i ≠ 7 ∧ i ≠ 1 ∧ i ≠ 0 := by decide
    refine and_congr_of_getLsbD fun i hi hm => ?_
    obtain ⟨h7, h1, h0⟩ := kept i hi hm
    rw [getLsbD_compareFlags, if_neg h7, if_neg h1, if_neg h0]

end
end

section
/-! The register transfers, increments and decrements, O16. -/

section

open Sys2Proof Sys2Proof.Machine

/-- Settles O16: each is `operate_plain`, with its row of the map found by computation. -/
theorem registerInstructionsComplete : Obligations.RegisterInstructionsComplete := by
  unfold Obligations.RegisterInstructionsComplete
  intro s result nz
  exact ⟨operate_plain (mn := .tax) rfl _ s, operate_plain (mn := .tay) rfl _ s,
    operate_plain (mn := .txa) rfl _ s, operate_plain (mn := .tya) rfl _ s,
    operate_plain (mn := .tsx) rfl _ s, operate_plain (mn := .txs) rfl _ s,
    operate_plain (mn := .inx) rfl _ s, operate_plain (mn := .iny) rfl _ s,
    operate_plain (mn := .dex) rfl _ s, operate_plain (mn := .dey) rfl _ s⟩

end
end

section
/-! SUPPORT. A one-byte operation on the stack (rules R176, R177): page 1 is RAM, so neither a push nor a pull
halts, and each instruction is its push or its pull with the base cycles of its row. -/

namespace Sys2Proof.Machine

/-- An instruction that pushes one byte. -/
theorem operate_push {mn : Mnemonic} {row : Row} (hrow : rowFor mn .implied = some row) (get : Cpu → Byte)
    (s : State) :
    operate mn .implied (fun _ s => noExtra (push (get s.cpu) s)) s = .next { s with
      bus := { s.bus with
        ram := writeCell s.bus.ram (256 + s.cpu.sp.toNat) (get s.cpu), openBus := get s.cpu }
      cpu := { s.cpu with sp := s.cpu.sp - 1, remainingCycles := row.baseCycles } } := by
  rw [operate_implied hrow, push_eq, noExtra_ok, Act.bind_ok, complete_ok]
  rfl

/-- An instruction that pulls one byte and sets registers from it. -/
theorem operate_pull {mn : Mnemonic} {row : Row} (hrow : rowFor mn .implied = some row)
    (set : Byte → State → State) (s : State) :
    operate mn .implied (fun _ s => (pull s).bind fun b s => .ok 0 (set b s)) s =
      let b := readCell s.bus.ram (256 + (s.cpu.sp + 1).toNat)
      .next ((set b ((s.setSp (s.cpu.sp + 1)).setOpenBus b)).setRemaining row.baseCycles) := by
  rw [operate_implied hrow, pull_eq, Act.bind_ok, Act.bind_ok, complete_ok]
  rfl

end Sys2Proof.Machine
end

section
/-! The stack instructions, O23. -/

section

open Sys2Proof Sys2Proof.Machine

/-- Settles O23: the pushes are `operate_push` and the pulls `operate_pull`, with each row of the map found by
computation. -/
theorem stackInstructionsComplete : Obligations.StackInstructionsComplete := by
  unfold Obligations.StackInstructionsComplete
  intro s pushes b pulls
  exact ⟨operate_push (mn := .pha) rfl Cpu.a s, operate_push (mn := .php) rfl (pushedByInstruction ·.p) s,
    operate_pull (mn := .pla) rfl (fun b s => (s.setP (setNZ b s.cpu.p)).setA b) s,
    operate_pull (mn := .plp) rfl (fun b s => s.setP (pulledStatus b)) s⟩

end
end

section
/-! SUPPORT. A read-modify-write on memory and on the accumulator (rules R192, R195, R204 to R208): the write
does not see `P`, so INC and DEC, which set it after the write, and the shifts, which set it before, complete in
the same state. -/

namespace Sys2Proof.Machine

/-- An operation's answer with `P` replaced, halted or not. -/
def Act.withP {α : Type} (p : Byte) : Act α → Act α
  | .ok v s => .ok v (s.setP p)
  | .halt s => .halt (s.setP p)

theorem ppuWrite_setP (a : PpuAddr) (v p : Byte) (s : State) :
    ppuWrite a v (s.setP p) = (ppuWrite a v s).withP p := by
  unfold ppuWrite
  simp only [State.setP_cart, State.setP_ppu]
  repeat' split
  all_goals rfl

theorem ppuPortWrite_setP (port : BitVec 3) (v p : Byte) (s : State) :
    ppuPortWrite port v (s.setP p) = (ppuPortWrite port v s).withP p := by
  unfold ppuPortWrite
  simp only [State.setP_ppu, ppuWrite_setP]
  cases ppuWrite (busAddr s.ppu.v) v s
  all_goals repeat' split
  all_goals rfl

/-- No bus write depends on `P` or changes it. -/
theorem memWrite_setP (a : Word) (v p : Byte) (s : State) :
    memWrite a v (s.setP p) = (memWrite a v s).withP p := by
  have hlatch : (s.setP p).setOpenBus v = (s.setOpenBus v).setP p := rfl
  unfold memWrite writeValue ioWrite
  simp only [hlatch, ppuPortWrite_setP, State.setP_cart]
  repeat' split
  all_goals rfl

/-- Whether the map has no row of the mnemonic that is charged the page penalty. -/
def neverCharged (mn : Mnemonic) : Bool := opcodeTable.all fun r => r.mnemonic != mn || !r.pagePenalty

theorem rowFor_no_penalty {mn : Mnemonic} {mode : Mode} {row : Row} (h : rowFor mn mode = some row)
    (hmn : neverCharged mn = true) : row.pagePenalty = false := by
  obtain ⟨hmem, rfl, -⟩ := rowFor_spec h
  simpa using List.all_eq_true.mp hmn row hmem

/-- Where neither access of memory halts, the operation is one read and one write of the same address, and
leaves the new `P`. -/
def ReadsModifiesWrites (f : Byte → Byte → Byte × Byte) (operation : Ref → State → Act Nat) : Prop :=
  ∀ {a : Word} {m : Byte} {s s' t : State}, memRead a s = .ok m s' →
    memWrite a (f m s'.cpu.p).1 s' = .ok () t → operation (.memory a) s = .ok 0 (t.setP (f m s'.cpu.p).2)

theorem modifyOperand_readsModifiesWrites (f : Byte → Byte → Byte × Byte) :
    ReadsModifiesWrites f (modifyOperand f) := by
  intro a m s s' t hr hw
  rw [modifyOperand_memory hr, hw, Act.bind_ok]

theorem shiftOperand_readsModifiesWrites (f : Byte → Byte → Byte × Byte) :
    ReadsModifiesWrites f (shiftOperand f) := by
  intro a m s s' t hr hw
  rw [shiftOperand_memory hr, memWrite_setP, hw, Act.withP, Act.bind_ok]

/-- A read-modify-write of memory whose accesses do not halt changes `P` alone of the registers, and takes the
base cycles whatever the page (rule R120, decision D4). -/
theorem operate_readModifyWrite_ok {f : Byte → Byte → Byte × Byte} {operation : Ref → State → Act Nat}
    (hop : ReadsModifiesWrites f operation) {mn : Mnemonic} (hmn : neverCharged mn = true) {o : Operand}
    {row : Row} (hrow : rowFor mn o.mode = some row) {s s1 s2 s3 : State} {a : Word} {e : Nat} {m : Byte}
    (ha : address row.pagePenalty o s = .ok (.memory a, e) s1) (hr : memRead a s1 = .ok m s2)
    (hw : memWrite a (f m s.cpu.p).1 s2 = .ok () s3) :
    operate mn o operation s = .next { s3 with cpu := { s.cpu with
      p := (f m s.cpu.p).2, remainingCycles := row.baseCycles } } := by
  have he : e = 0 := address_no_penalty (rowFor_no_penalty hrow hmn ▸ ha)
  have h2 : s2.cpu = s.cpu := (memRead_frame_ok hr).cpu.trans (address_ok_cpu ha)
  have h3 : s3.cpu = s2.cpu := memWrite_ok_cpu hw
  rw [← h2] at hw ⊢
  rw [operate_of_address hrow ha, hop hr hw, he, ← h3]
  rfl

/-- A shift of the accumulator makes no bus access. -/
theorem operate_shift_accumulator {mn : Mnemonic} {row : Row} (hrow : rowFor mn .accumulator = some row)
    (f : Byte → Byte → Byte × Byte) (s : State) :
    operate mn .accumulator (shiftOperand f) s = .next { s with cpu := { s.cpu with
      a := (f s.cpu.a s.cpu.p).1, p := (f s.cpu.a s.cpu.p).2, remainingCycles := row.baseCycles } } := by
  have ha : address row.pagePenalty .accumulator s = .ok (.accumulator, 0) s := rfl
  rw [operate_of_address hrow ha, shiftOperand_accumulator]
  rfl

end Sys2Proof.Machine
end

section
/-! INC, DEC and the shifts, O19. -/

section

open Sys2Proof Sys2Proof.Machine

/-- Settles O19: on memory both kinds of operation are a `ReadsModifiesWrites`; on `A` a shift is
`operate_shift_accumulator`, with its row of the map found by computation. -/
theorem readModifyWriteCompletes : Obligations.ReadModifyWriteCompletes := by
  unfold Obligations.ReadModifyWriteCompletes
  refine ⟨fun o row s s1 s2 s3 a e m ha hr => ?memory, fun s => ?accumulator⟩
  case memory =>
    have modify := modifyOperand_readsModifiesWrites
    have shift := shiftOperand_readsModifiesWrites
    exact ⟨fun hrow hw => operate_readModifyWrite_ok (modify incResult) (by decide) hrow ha hr hw,
      fun hrow hw => operate_readModifyWrite_ok (modify decResult) (by decide) hrow ha hr hw,
      fun hrow hw => operate_readModifyWrite_ok (shift aslResult) (by decide) hrow ha hr hw,
      fun hrow hw => operate_readModifyWrite_ok (shift lsrResult) (by decide) hrow ha hr hw,
      fun hrow hw => operate_readModifyWrite_ok (shift rolResult) (by decide) hrow ha hr hw,
      fun hrow hw => operate_readModifyWrite_ok (shift rorResult) (by decide) hrow ha hr hw⟩
  case accumulator =>
    exact ⟨operate_shift_accumulator (mn := .asl) rfl aslResult s,
      operate_shift_accumulator (mn := .lsr) rfl lsrResult s,
      operate_shift_accumulator (mn := .rol) rfl rolResult s,
      operate_shift_accumulator (mn := .ror) rfl rorResult s⟩

end
end

section
/-! SUPPORT. A shift or rotate as a nine-bit equation (rules R204 to R207): a shift is the rotate whose incoming
bit is 0, and each writes N and Z from its result, C from the bit shifted out, and no other flag. -/

namespace Sys2Proof.Machine

/-- The status a shift leaves: bits 1 and 7 from the result, bit 0 the bit shifted out. -/
theorem getLsbD_setNZ_carry (r p : Byte) (c : Bool) (i : Nat) :
    (setNZ r (withFlag maskC c p)).getLsbD i = if i = 7 then r.getLsbD 7 else if i = 1 then r == 0 else
      if i = 0 then c else p.getLsbD i := by
  have hC : maskC = BitVec.twoPow 8 0 := by decide
  rw [getLsbD_setNZ, getLsbD_withFlag hC (by decide)]

theorem flagC_setNZ_carry (r p : Byte) (c : Bool) : flagC (setNZ r (withFlag maskC c p)) = c :=
  getLsbD_setNZ_carry r p c 0

/-- The flags a shift takes from its result, and the ones it leaves. -/
theorem setNZ_carry_flags (r p : Byte) (c : Bool) :
    flagZ (setNZ r (withFlag maskC c p)) = decide (r = 0) ∧
    flagN (setNZ r (withFlag maskC c p)) = r.getLsbD 7 ∧
    setNZ r (withFlag maskC c p) &&& 0x7C = p &&& 0x7C := by
  refine ⟨getLsbD_setNZ_carry r p c 1, getLsbD_setNZ_carry r p c 7, and_congr_of_getLsbD fun i hi hm => ?_⟩
  have kept : ∀ i < 8, (0x7C : Byte).getLsbD i = true → i ≠ 7 ∧ i ≠ 1 ∧ i ≠ 0 := by decide
  obtain ⟨h7, h1, h0⟩ := kept i hi hm
  rw [getLsbD_setNZ_carry, if_neg h7, if_neg h1, if_neg h0]

/-- A byte moved one place left, with the bit taken in at bit 0. -/
def rotatedLeft (m : Byte) (c : Bool) : Byte := (m <<< 1) ||| (if c then 0x01 else 0x00)

/-- A byte moved one place right, with the bit taken in at bit 7. -/
def rotatedRight (m : Byte) (c : Bool) : Byte := (m >>> 1) ||| (if c then 0x80 else 0x00)

theorem aslResult_eq (m p : Byte) : aslResult m p =
    (rotatedLeft m false, setNZ (rotatedLeft m false) (withFlag maskC (m.getLsbD 7) p)) := by
  have h : rotatedLeft m false = m <<< 1 := BitVec.or_zero
  rw [h, aslResult]

theorem lsrResult_eq (m p : Byte) : lsrResult m p =
    (rotatedRight m false, setNZ (rotatedRight m false) (withFlag maskC (m.getLsbD 0) p)) := by
  have h : rotatedRight m false = m >>> 1 := BitVec.or_zero
  rw [h, lsrResult]

theorem rolResult_eq (m p : Byte) : rolResult m p =
    (rotatedLeft m (flagC p), setNZ (rotatedLeft m (flagC p)) (withFlag maskC (m.getLsbD 7) p)) := rfl

theorem rorResult_eq (m p : Byte) : rorResult m p =
    (rotatedRight m (flagC p), setNZ (rotatedRight m (flagC p)) (withFlag maskC (m.getLsbD 0) p)) := rfl

/-- The bit shifted out above the result is the byte above the bit taken in. -/
theorem cons_rotatedLeft (m : Byte) (c : Bool) :
    BitVec.cons (m.getLsbD 7) (rotatedLeft m c) = BitVec.concat m c := by
  ext i hi
  cases c <;> interval_cases i <;> simp [rotatedLeft, BitVec.getElem_cons, BitVec.getElem_concat]

/-- The result above the bit shifted out is the bit taken in above the byte. -/
theorem concat_rotatedRight (m : Byte) (c : Bool) :
    BitVec.concat (rotatedRight m c) (m.getLsbD 0) = BitVec.cons c m := by
  ext i hi
  cases c <;> interval_cases i <;> simp [rotatedRight, BitVec.getElem_cons, BitVec.getElem_concat]

theorem carryNat_eq_toNat (c : Bool) : carryNat c = c.toNat := by cases c <;> rfl

theorem toNat_cons_byte (c : Bool) (m : Byte) : (BitVec.cons c m).toNat = 256 * carryNat c + m.toNat := by
  rw [BitVec.toNat_cons', Nat.shiftLeft_eq, carryNat_eq_toNat, Nat.mul_comm]

theorem toNat_concat_byte (m : Byte) (c : Bool) : (BitVec.concat m c).toNat = 2 * m.toNat + carryNat c := by
  rw [BitVec.toNat_concat, carryNat_eq_toNat, Nat.mul_comm]

/-- A rotate left doubles the byte into carry and result. -/
theorem rotatedLeft_nineBit (m p : Byte) (c : Bool) :
    2 * m.toNat + carryNat c =
      256 * carryNat (flagC (setNZ (rotatedLeft m c) (withFlag maskC (m.getLsbD 7) p))) +
        (rotatedLeft m c).toNat := by
  rw [flagC_setNZ_carry, ← toNat_concat_byte, ← cons_rotatedLeft, toNat_cons_byte]

/-- A rotate right halves the byte below the bit taken in into result and carry. -/
theorem rotatedRight_nineBit (m p : Byte) (c : Bool) :
    m.toNat + 256 * carryNat c = 2 * (rotatedRight m c).toNat +
      carryNat (flagC (setNZ (rotatedRight m c) (withFlag maskC (m.getLsbD 0) p))) := by
  rw [flagC_setNZ_carry, Nat.add_comm, ← toNat_cons_byte, ← concat_rotatedRight, toNat_concat_byte]

end Sys2Proof.Machine
end

section
/-! The shifts and rotates, O13. -/

section

open Sys2Proof Sys2Proof.Machine

/-- Settles O13: the rotates are the two nine-bit equations with the old carry, the shifts the same with a 0
taken in. -/
theorem shiftsAreNineBitEquations : Obligations.ShiftsAreNineBitEquations := by
  unfold Obligations.ShiftsAreNineBitEquations
  intro m p
  rw [aslResult_eq, lsrResult_eq, rolResult_eq, rorResult_eq]
  exact ⟨⟨rotatedLeft_nineBit m p false, setNZ_carry_flags _ p _⟩,
    ⟨rotatedRight_nineBit m p false, setNZ_carry_flags _ p _⟩,
    ⟨rotatedLeft_nineBit m p (flagC p), setNZ_carry_flags _ p _⟩,
    ⟨rotatedRight_nineBit m p (flagC p), setNZ_carry_flags _ p _⟩⟩

end
end

section
/-! SUPPORT. An operation on `A` and one on the flags, once the operand byte is read (rules R187 to R191, R200 to
R203), and the status BIT leaves. -/

namespace Sys2Proof.Machine

/-- An operation whose operand byte can be read puts its result in `A` and its status in `P`. -/
theorem operate_accumulate_ok {mn : Mnemonic} {o : Operand} {row : Row} {s s' : State} {m : Byte} {e : Nat}
    (hrow : rowFor mn o.mode = some row) (hop : operandByte row.pagePenalty o s = .ok (m, e) s')
    (f : Byte → Byte → Byte → Byte × Byte) (extra : Byte → Nat) :
    operate mn o (accumulate f extra) s = .next { s' with cpu := { s.cpu with
      a := (f s.cpu.a m s.cpu.p).1, p := (f s.cpu.a m s.cpu.p).2
      remainingCycles := row.baseCycles + e + extra s.cpu.p } } := by
  unfold accumulate
  rw [operate_read_ok hrow hop rfl, ← operandByte_ok_cpu hop, Nat.add_assoc]
  rfl

/-- An operation whose operand byte can be read and that only tests it puts its status in `P`. -/
theorem operate_flags_ok {mn : Mnemonic} {o : Operand} {row : Row} {s s' : State} {m : Byte} {e : Nat}
    (hrow : rowFor mn o.mode = some row) (hop : operandByte row.pagePenalty o s = .ok (m, e) s')
    (flags : Cpu → Byte → Byte) :
    operate mn o (fun r s => (readRef r s).bind fun m s => .ok 0 (s.setP (flags s.cpu m))) s =
      .next { s' with cpu := { s.cpu with p := flags s.cpu m, remainingCycles := row.baseCycles + e } } := by
  rw [operate_read_ok hrow hop rfl, ← operandByte_ok_cpu hop]
  rfl

/-- BIT writes bits 1, 6 and 7. -/
theorem getLsbD_bitFlags (a m p : Byte) (i : Nat) :
    (bitFlags a m p).getLsbD i = if i = 6 then m.getLsbD 6 else if i = 7 then m.getLsbD 7 else
      if i = 1 then a &&& m == 0 else p.getLsbD i := by
  have hV : maskV = BitVec.twoPow 8 6 := by decide
  have hN : maskN = BitVec.twoPow 8 7 := by decide
  have hZ : maskZ = BitVec.twoPow 8 1 := by decide
  rw [bitFlags, getLsbD_withFlag hV (by decide), getLsbD_withFlag hN (by decide),
    getLsbD_withFlag hZ (by decide)]

/-- BIT's status as masks: bits 6 and 7 of the memory byte, bit 1 from the AND, the others kept. -/
theorem bitFlags_eq_masks (a m p : Byte) :
    bitFlags a m p = (p &&& 0x3D) ||| (m &&& 0xC0) ||| (if a &&& m = 0 then 0x02 else 0x00) := by
  refine BitVec.eq_of_getLsbD_eq fun i hi => ?_
  rw [getLsbD_bitFlags, BitVec.getLsbD_or, BitVec.getLsbD_or, BitVec.getLsbD_and, BitVec.getLsbD_and]
  by_cases hz : a &&& m = 0
  · rw [if_pos hz, beq_iff_eq.mpr hz]
    interval_cases i <;> simp
  · rw [if_neg hz, beq_eq_false_iff_ne.mpr hz]
    interval_cases i <;> simp

end Sys2Proof.Machine
end

section
/-! Arithmetic and logic on `A`, O17, and the compares and BIT, O18. -/

section

open Sys2Proof Sys2Proof.Machine

/-- Settles O17: each is `operate_accumulate_ok` for its result and its added cycles. -/
theorem accumulatorInstructionsComplete : Obligations.AccumulatorInstructionsComplete := by
  unfold Obligations.AccumulatorInstructionsComplete
  intro o row s s' m e hop decimal result
  exact ⟨fun hrow => operate_accumulate_ok hrow hop adcResult decimalExtra,
    fun hrow => operate_accumulate_ok hrow hop sbcResult decimalExtra,
    fun hrow => operate_accumulate_ok hrow hop (logicResult (· &&& ·)) fun _ => 0,
    fun hrow => operate_accumulate_ok hrow hop (logicResult (· ||| ·)) fun _ => 0,
    fun hrow => operate_accumulate_ok hrow hop (logicResult (· ^^^ ·)) fun _ => 0⟩

/-- Settles O18: each is `operate_flags_ok` for its flags, and BIT's flags are the statement's masks. -/
theorem comparesAndBitComplete : Obligations.ComparesAndBitComplete := by
  unfold Obligations.ComparesAndBitComplete
  intro o row s s' m e hop result
  rw [← bitFlags_eq_masks]
  exact ⟨fun hrow => operate_flags_ok hrow hop fun c m => compareFlags c.a m c.p,
    fun hrow => operate_flags_ok hrow hop fun c m => compareFlags c.x m c.p,
    fun hrow => operate_flags_ok hrow hop fun c m => compareFlags c.y m c.p,
    fun hrow => operate_flags_ok hrow hop fun c m => bitFlags c.a m c.p⟩

end
end

section
/-! SUPPORT. JSR and RTS (rules R222, R223): each is one 16-bit stack operation, then a jump; and the address RTS
jumps to. -/

namespace Sys2Proof.Machine

theorem exec_jsr (target : Word) (s : State) :
    exec (.jsr target) s =
      complete 6 ((push16 (s.cpu.pc - 1) s).bind fun _ t => .ok 0 (t.setPc target)) := by
  have hrow : rowFor .jsr (Operand.absolute target).mode = some ⟨0x20, .jsr, .absolute, 6, false⟩ := rfl
  refine (operate_row hrow
    (fun r t => noExtra ((push16 (t.cpu.pc - 1) t).bind fun _ u => jumpRef r u)) s).trans ?_
  rw [address, Act.bind_ok, noExtra, Act.bind_assoc, Act.bind_assoc]
  rfl

theorem exec_rts (s : State) :
    exec .rts s = complete 6 ((pull16 s).bind fun a t => .ok 0 (t.setPc (a + 1))) := by
  have hrow : rowFor .rts .implied = some ⟨0x60, .rts, .implied, 6, false⟩ := rfl
  refine (operate_implied hrow (fun _ t => (pull16 t).bind fun a u => .ok 0 (u.setPc (a + 1))) s).trans ?_
  rw [Act.bind_assoc]
  rfl

theorem wordOf_add_one (lo hi : Byte) :
    wordOf lo hi + 1 = BitVec.ofNat 16 (hi.toNat * 256 + lo.toNat + 1) := by
  rw [wordOf_eq, BitVec.ofNat_add _ 1]
  rfl

end Sys2Proof.Machine
end

section
/-! Subroutine call and return, O22. -/

section

open Sys2Proof Sys2Proof.Machine

/-- Settles O22: the stack operations are `push16_eq` and `pull16_eq`, and RTS goes to `wordOf_add_one`. -/
theorem subroutineCallAndReturn : Obligations.SubroutineCallAndReturn := by
  unfold Obligations.SubroutineCallAndReturn
  intro s
  have hpush : s.cpu.sp - 1 - 1 = s.cpu.sp - 2 := sub_sub _ 1 1
  have hpull : s.cpu.sp + 1 + 1 = s.cpu.sp + 2 := add_assoc _ 1 1
  refine ⟨fun target => ?_, ?_⟩
  · rw [exec_jsr, push16_eq, hpush]
    rfl
  · rw [exec_rts, pull16_eq, hpull, Act.bind_ok, wordOf_add_one]
    rfl

end
end

section
/-! SUPPORT. An instruction that writes one flag (rules R228 to R234): `P` with the flag's mask taken out or put
in, and the base cycles of its row. -/

namespace Sys2Proof.Machine

theorem operate_clearFlag {mn : Mnemonic} {row : Row} (hrow : rowFor mn .implied = some row) {mask kept : Byte}
    (hkept : ~~~mask = kept) (s : State) :
    operate mn .implied (plain (writeFlag mask false)) s = .next { s with
      cpu := { s.cpu with p := s.cpu.p &&& kept, remainingCycles := row.baseCycles } } := by
  subst hkept
  exact operate_plain hrow _ s

theorem operate_setFlag {mn : Mnemonic} {row : Row} (hrow : rowFor mn .implied = some row) (mask : Byte)
    (s : State) :
    operate mn .implied (plain (writeFlag mask true)) s = .next { s with
      cpu := { s.cpu with p := s.cpu.p ||| mask, remainingCycles := row.baseCycles } } :=
  operate_plain hrow _ s

end Sys2Proof.Machine
end

section
/-! The flag instructions and NOP, O24. -/

section

open Sys2Proof Sys2Proof.Machine

/-- Settles O24: each flag instruction is `operate_clearFlag` or `operate_setFlag` for its mask and NOP is
`operate_plain`, with each row of the map found by computation. -/
theorem flagInstructionsComplete : Obligations.FlagInstructionsComplete := by
  unfold Obligations.FlagInstructionsComplete
  intro s result
  have clearC : ~~~maskC = 0xFE := by decide
  have clearI : ~~~maskI = 0xFB := by decide
  have clearV : ~~~maskV = 0xBF := by decide
  have clearD : ~~~maskD = 0xF7 := by decide
  exact ⟨operate_clearFlag (mn := .clc) rfl clearC s, operate_setFlag (mn := .sec) rfl maskC s,
    operate_clearFlag (mn := .cli) rfl clearI s, operate_setFlag (mn := .sei) rfl maskI s,
    operate_clearFlag (mn := .clv) rfl clearV s, operate_clearFlag (mn := .cld) rfl clearD s,
    operate_setFlag (mn := .sed) rfl maskD s, operate_plain (mn := .nop) rfl id s⟩

end
end

section
/-! SUPPORT. RTI (rules R237, R254): page 1 is RAM, so none of its three pulls halts. -/

namespace Sys2Proof.Machine

/-- The return pulls the status byte, then the return address, and goes there. -/
theorem returnFromInterrupt_eq (s : State) :
    returnFromInterrupt s = .ok () { s with
      bus := { s.bus with openBus := readCell s.bus.ram (256 + (s.cpu.sp + 1 + 1 + 1).toNat) }
      cpu := { s.cpu with
        sp := s.cpu.sp + 1 + 1 + 1
        p := pulledStatus (readCell s.bus.ram (256 + (s.cpu.sp + 1).toNat))
        pc := wordOf (readCell s.bus.ram (256 + (s.cpu.sp + 1 + 1).toNat))
          (readCell s.bus.ram (256 + (s.cpu.sp + 1 + 1 + 1).toNat)) } } := by
  rw [returnFromInterrupt, pull_eq, Act.bind_ok, pull16_eq, Act.bind_ok]
  rfl

theorem exec_rti (s : State) : exec .rti s = complete 6 (noExtra (returnFromInterrupt s)) := by
  have hrow : rowFor .rti .implied = some ⟨0x40, .rti, .implied, 6, false⟩ := rfl
  refine (operate_implied hrow (fun _ t => noExtra (returnFromInterrupt t)) s).trans ?_
  rw [returnFromInterrupt_eq]
  rfl

end Sys2Proof.Machine
end

section
/-! Return from an interrupt, O26. -/

section

open Sys2Proof Sys2Proof.Machine

/-- Settles O26: the return is `returnFromInterrupt_eq`, and the pulled address is `wordOf_eq`. -/
theorem returnFromInterruptCompletes : Obligations.ReturnFromInterruptCompletes := by
  unfold Obligations.ReturnFromInterruptCompletes
  intro s p lo hi
  have hsp2 : s.cpu.sp + 1 + 1 = s.cpu.sp + 2 := add_assoc _ 1 1
  have hsp3 : s.cpu.sp + 2 + 1 = s.cpu.sp + 3 := add_assoc _ 2 1
  rw [exec_rti, returnFromInterrupt_eq, hsp2, hsp3, wordOf_eq]
  rfl

end
end

section
/-! SUPPORT. A halted operand access (rules R245, R246, decision D11): a halt of an access always marks the
machine halted; an operation whose operand read or write halts leaves the state of that access, and a shift has
put its status in `P` before the write (rule R208, notes/assumptions 19). -/

namespace Sys2Proof.Machine

section
variable {α β : Type}

/-- Where the answer is a halt, the machine it leaves is halted. -/
def Act.MarksHalt (m : Act α) : Prop := ∀ t, m = .halt t → t.halted.isSome = true

theorem Act.marksHalt_ok (a : α) (s : State) : (Act.ok a s).MarksHalt := by
  intro t h
  cases h

theorem marksHalt_raise (r : HaltReason) (s : State) : (raise r s : Act α).MarksHalt := by
  intro t h
  cases h
  rfl

theorem Act.MarksHalt.bind {m : Act α} {f : α → State → Act β} (hm : m.MarksHalt)
    (hf : ∀ a s, (f a s).MarksHalt) : (m.bind f).MarksHalt := by
  intro t h
  rcases (Act.bind_eq_halt m f t).mp h with h | ⟨a, s, -, h⟩
  · exact hm t h
  · exact hf a s t h

end

theorem memRead_marksHalt (a : Word) (s : State) : (memRead a s).MarksHalt := by
  intro t h
  obtain ⟨r, -, rfl⟩ := memRead_halt_eq h
  rfl

theorem ppuWrite_marksHalt (a : PpuAddr) (v : Byte) (s : State) : (ppuWrite a v s).MarksHalt := by
  unfold ppuWrite
  split
  · split
    · exact Act.marksHalt_ok _ _
    · exact marksHalt_raise _ s
  · split <;> exact Act.marksHalt_ok _ _

/-- Of the eight ports only PPUDATA's write reaches the PPU bus. -/
theorem ppuPortWrite_marksHalt (port : BitVec 3) (v : Byte) (s : State) : (ppuPortWrite port v s).MarksHalt := by
  unfold ppuPortWrite
  iterate 7 (split; · exact Act.marksHalt_ok _ _)
  exact (ppuWrite_marksHalt _ v s).bind fun _ _ => Act.marksHalt_ok _ _

theorem memWrite_marksHalt (a : Word) (v : Byte) (s : State) : (memWrite a v s).MarksHalt := by
  unfold memWrite writeValue
  split
  · exact Act.marksHalt_ok _ _
  split
  · exact ppuPortWrite_marksHalt _ v _
  split
  · exact Act.marksHalt_ok _ _
  split
  · exact marksHalt_raise _ _
  split
  · exact Act.marksHalt_ok _ _
  · exact marksHalt_raise _ _

theorem address_marksHalt (p : Bool) (o : Operand) (s : State) : (address p o s).MarksHalt := by
  have pair (a b : Word) (t : State) :
      ((memRead a t).bind fun lo t => (memRead b t).bind fun hi t => .ok (wordOf lo hi) t).MarksHalt :=
    (memRead_marksHalt a t).bind fun _ t => (memRead_marksHalt b t).bind fun _ _ => Act.marksHalt_ok _ _
  cases o with
  | indirect | indirectX | indirectY => exact (pair _ _ s).bind fun _ _ => Act.marksHalt_ok _ _
  | _ => exact Act.marksHalt_ok _ s

theorem readRef_marksHalt (r : Ref) (s : State) : (readRef r s).MarksHalt := by
  cases r with
  | none => exact marksHalt_raise _ s
  | accumulator | value => exact Act.marksHalt_ok _ s
  | memory a => exact memRead_marksHalt a s

theorem operandByte_marksHalt (p : Bool) (o : Operand) (s : State) : (operandByte p o s).MarksHalt :=
  (address_marksHalt p o s).bind fun re t => (readRef_marksHalt re.1 t).bind fun _ _ => Act.marksHalt_ok _ _

/-- The operation begins with the read of its operand byte and ends where that halts. -/
def EndsWhereReadHalts (operation : Ref → State → Act Nat) : Prop :=
  ∀ (r : Ref) (s t : State), readRef r s = .halt t → operation r s = .halt t

/-- Running an operation whose operand read halts, in the mode or in the operation. -/
theorem operate_read_halt {mn : Mnemonic} {o : Operand} {row : Row} {operation : Ref → State → Act Nat}
    {s t : State} (hrow : rowFor mn o.mode = some row) (hop : EndsWhereReadHalts operation)
    (h : operandByte row.pagePenalty o s = .halt t) : operate mn o operation s = .next t := by
  rcases (Act.bind_eq_halt _ _ t).mp h with ha | ⟨⟨r, e⟩, s1, ha, hr⟩
  · rw [operate_row hrow, ha, Act.bind_halt, complete_halt]
  · have hread : readRef r s1 = .halt t := by simpa [Act.bind_eq_halt] using hr
    rw [operate_of_address hrow ha, hop r s1 t hread, Act.bind_halt, complete_halt]

/-- The loads, the operations on `A`, the compares and BIT, and the read-modify-writes all begin with that read. -/
theorem exec_operandByte_halt {i : Instr} {mn : Mnemonic} {o : Operand} {row : Row} {s t : State}
    (hi : i.shape = some (mn, o)) (hrow : rowFor mn o.mode = some row)
    (hmn : mn ∈ [Mnemonic.lda, .ldx, .ldy, .adc, .sbc, .cmp, .cpx, .cpy, .and, .ora, .eor, .bit] ∨
      mn ∈ [Mnemonic.inc, .dec, .asl, .lsr, .rol, .ror])
    (h : operandByte row.pagePenalty o s = .halt t) : exec i s = .next t := by
  unfold exec
  cases i with
  | lda | ldx | ldy | adc | sbc | cmp | cpx | cpy | and | ora | eor | bit | inc | dec | asl | lsr | rol | ror =>
    cases hi
    refine operate_read_halt hrow (fun r u v hread => ?_) h
    change (readRef r u).bind _ = _
    rw [hread, Act.bind_halt]
  | illegal => cases hi
  | _ =>
    cases hi
    exact absurd hmn (by decide)

theorem operandByte_halt_ends {p : Bool} {o : Operand} {s t : State} (h : operandByte p o s = .halt t) :
    t.cpu = s.cpu ∧ t.halted.isSome = true := by
  have hcpu := (operandByte_frame p o s).cpu
  rw [h] at hcpu
  exact ⟨hcpu, operandByte_marksHalt p o s t h⟩

/-- A store whose write halts leaves the state of that write. -/
theorem operate_store_halt {mn : Mnemonic} {o : Operand} {row : Row} {get : Cpu → Byte} {s s1 t : State}
    {a : Word} {e : Nat} (hrow : rowFor mn o.mode = some row)
    (ha : address row.pagePenalty o s = .ok (.memory a, e) s1) (hw : memWrite a (get s.cpu) s1 = .halt t) :
    operate mn o (storeFrom get) s = .next t ∧ t.cpu = s.cpu ∧ t.halted.isSome = true := by
  have h1 : s1.cpu = s.cpu := address_ok_cpu ha
  refine ⟨?_, (memWrite_halt_cpu hw).trans h1, memWrite_marksHalt _ _ _ t hw⟩
  rw [operate_of_address hrow ha, storeFrom, writeRef, h1, hw]
  rfl

/-- Where the write-back of `f`'s result halts, the operation leaves the state of that write, and in `P` the
`status` of the byte read and the old `P`. -/
def HaltsInWriteBack (f : Byte → Byte → Byte × Byte) (status : Byte → Byte → Byte)
    (operation : Ref → State → Act Nat) : Prop :=
  ∀ {a : Word} {m : Byte} {s s' t : State}, memRead a s = .ok m s' →
    memWrite a (f m s'.cpu.p).1 s' = .halt t → operation (.memory a) s = .halt (t.setP (status m s'.cpu.p))

/-- INC and DEC set `P` after the write: a halted one keeps the old status. -/
theorem modifyOperand_haltsInWriteBack (f : Byte → Byte → Byte × Byte) :
    HaltsInWriteBack f (fun _ p => p) (modifyOperand f) := by
  intro a m s s' t hr hw
  rw [modifyOperand_memory hr, hw, Act.bind_halt, ← memWrite_halt_cpu hw]
  rfl

/-- A shift sets `P` before the write: a halted one keeps the new status. -/
theorem shiftOperand_haltsInWriteBack (f : Byte → Byte → Byte × Byte) :
    HaltsInWriteBack f (fun m p => (f m p).2) (shiftOperand f) := by
  intro a m s s' t hr hw
  rw [shiftOperand_memory hr, memWrite_setP, hw, Act.withP, Act.bind_halt]

/-- A read-modify-write of memory whose write-back halts changes at most `P` of the registers. -/
theorem operate_writeBack_halt {f : Byte → Byte → Byte × Byte} {status : Byte → Byte → Byte}
    {operation : Ref → State → Act Nat} (hop : HaltsInWriteBack f status operation) {mn : Mnemonic} {o : Operand}
    {row : Row} (hrow : rowFor mn o.mode = some row) {s s1 s2 t : State} {a : Word} {e : Nat} {m : Byte}
    (ha : address row.pagePenalty o s = .ok (.memory a, e) s1) (hr : memRead a s1 = .ok m s2)
    (hw : memWrite a (f m s.cpu.p).1 s2 = .halt t) :
    operate mn o operation s = .next { t with cpu := { s.cpu with p := status m s.cpu.p } } ∧
      t.cpu = s.cpu ∧ t.halted.isSome = true := by
  have h2 : s2.cpu = s.cpu := (memRead_frame_ok hr).cpu.trans (address_ok_cpu ha)
  have ht : t.cpu = s.cpu := (memWrite_halt_cpu hw).trans h2
  refine ⟨?_, ht, memWrite_marksHalt _ _ _ t hw⟩
  rw [← h2] at hw
  rw [operate_of_address hrow ha, hop hr hw, h2, ← ht]
  rfl

end Sys2Proof.Machine
end

section
/-! A halted operand access, O27. -/

section

open Sys2Proof Sys2Proof.Machine

/-- Settles O27: a halted operand read is `exec_operandByte_halt`, whether the instruction would have written the
byte back or not; a halted write is `operate_store_halt` or `operate_writeBack_halt`. -/
theorem haltingAccessEndsTheInstruction : Obligations.HaltingAccessEndsTheInstruction := by
  unfold Obligations.HaltingAccessEndsTheInstruction
  refine ⟨?read, ?store, ?modifyRead, ?modifyWrite⟩
  case read =>
    intro i mn o row s t hi hrow hmn h
    exact ⟨exec_operandByte_halt hi hrow (.inl hmn) h, operandByte_halt_ends h⟩
  case store =>
    intro o row s s1 t a e ha
    exact ⟨fun hrow hw => operate_store_halt hrow ha hw, fun hrow hw => operate_store_halt hrow ha hw,
      fun hrow hw => operate_store_halt hrow ha hw⟩
  case modifyRead =>
    intro i mn o row s s1 t a e hi hrow hmn ha hr
    have h : operandByte row.pagePenalty o s = .halt t := by
      rw [operandByte_of_address ha, readRef, hr, Act.bind_halt]
    exact ⟨exec_operandByte_halt hi hrow (.inr hmn) h, operandByte_halt_ends h⟩
  case modifyWrite =>
    intro o row s s1 s2 t a e m ha hr ends shifts
    have modify (f) := @operate_writeBack_halt f (fun _ p => p) _ (@modifyOperand_haltsInWriteBack f)
    have shift (f) := @operate_writeBack_halt f (fun m p => (f m p).2) _ (@shiftOperand_haltsInWriteBack f)
    exact ⟨fun hrow hw => modify incResult hrow ha hr hw,
      fun hrow hw => modify decResult hrow ha hr hw,
      fun hrow hw => shift aslResult hrow ha hr hw,
      fun hrow hw => shift lsrResult hrow ha hr hw,
      fun hrow hw => shift rolResult hrow ha hr hw,
      fun hrow hw => shift rorResult hrow ha hr hw⟩

end
end

section
/-! SUPPORT. The footprint of an instruction (rules R24, R50): which registers, which bits of `P` and which memory
it can change. One walk through the instructions serves every register, every flag and every memory. -/

namespace Sys2Proof.Machine

/-- A flag write inside `mask` leaves every bit of `P` outside it. -/
theorem withFlag_outside {flag mask : Byte} (h : flag &&& ~~~mask = 0) (b : Bool) (p : Byte) :
    withFlag flag b p &&& ~~~mask = p &&& ~~~mask := by
  refine BitVec.eq_of_getLsbD_eq fun i hi => ?_
  have hbit := congrArg (·.getLsbD i) h
  simp only [BitVec.getLsbD_and, BitVec.getLsbD_not, hi, decide_true, Bool.true_and] at hbit
  unfold withFlag
  cases hf : flag.getLsbD i <;> cases hm : mask.getLsbD i <;> cases b <;> simp_all

theorem setNZ_outside (v p : Byte) :
    setNZ v p &&& ~~~(maskN ||| maskZ) = p &&& ~~~(maskN ||| maskZ) := by
  rw [setNZ, withFlag_outside rfl, withFlag_outside rfl]

theorem setNZ_carry_outside (v p : Byte) (c : Bool) :
    setNZ v (withFlag maskC c p) &&& ~~~(maskN ||| maskZ ||| maskC) = p &&& ~~~(maskN ||| maskZ ||| maskC) := by
  rw [setNZ, withFlag_outside rfl, withFlag_outside rfl, withFlag_outside rfl]

theorem bitFlags_outside (a m p : Byte) :
    bitFlags a m p &&& ~~~(maskN ||| maskV ||| maskZ) = p &&& ~~~(maskN ||| maskV ||| maskZ) := by
  rw [bitFlags, withFlag_outside rfl, withFlag_outside rfl, withFlag_outside rfl]

/-- The bits of `P` that ADC and SBC leave. -/
def arithmeticRest (p : Byte) : Byte := p &&& ~~~(maskN ||| maskV ||| maskZ ||| maskC)

theorem addBinary_outside (a m p : Byte) : arithmeticRest (addBinary a m p).2 = arithmeticRest p := by
  rw [arithmeticRest, addBinary, setNZ, withFlag_outside rfl, withFlag_outside rfl, withFlag_outside rfl,
    withFlag_outside rfl, arithmeticRest]

theorem addDecimal_outside (a m p : Byte) : arithmeticRest (addDecimal a m p).2 = arithmeticRest p := by
  simp only [arithmeticRest, addDecimal]
  rw [withFlag_outside rfl, withFlag_outside rfl, withFlag_outside rfl, withFlag_outside rfl]

theorem subDecimal_outside (a m p : Byte) : arithmeticRest (subDecimal a m p).2 = arithmeticRest p := by
  simp only [arithmeticRest, subDecimal]
  rw [withFlag_outside rfl, withFlag_outside rfl, withFlag_outside rfl, withFlag_outside rfl]

theorem adcResult_outside (a m p : Byte) : arithmeticRest (adcResult a m p).2 = arithmeticRest p := by
  unfold adcResult
  split
  · exact addDecimal_outside a m p
  · exact addBinary_outside a m p

theorem sbcResult_outside (a m p : Byte) : arithmeticRest (sbcResult a m p).2 = arithmeticRest p := by
  unfold sbcResult
  split
  · exact subDecimal_outside a m p
  · exact addBinary_outside a _ p

/-- No byte of any memory is written, and no OAM DMA is requested. -/
structure SameMemory (s t : State) : Prop where
  ram : t.bus.ram = s.bus.ram
  dma : t.bus.dmaRequest = s.bus.dmaRequest
  cart : t.cart = s.cart
  palette : t.ppu.palette = s.ppu.palette
  oam : t.ppu.oam = s.ppu.oam

theorem SameMemory.refl (s : State) : SameMemory s s := ⟨rfl, rfl, rfl, rfl, rfl⟩

theorem SameMemory.trans {a b c : State} (h : SameMemory a b) (k : SameMemory b c) : SameMemory a c :=
  ⟨k.ram.trans h.ram, k.dma.trans h.dma, k.cart.trans h.cart, k.palette.trans h.palette, k.oam.trans h.oam⟩

/-- What the operation of instruction `i` leaves of the registers, of `P` and of the memories; the cycle count is set
at the end of the instruction only. -/
structure Footprint (i : Instr) (s t : State) : Prop where
  a : writesA i = false → t.cpu.a = s.cpu.a
  x : writesX i = false → t.cpu.x = s.cpu.x
  y : writesY i = false → t.cpu.y = s.cpu.y
  sp : writesSp i = false → t.cpu.sp = s.cpu.sp
  p : t.cpu.p &&& ~~~(flagsWritten i) = s.cpu.p &&& ~~~(flagsWritten i)
  memory : storesMemory i = false → SameMemory s t
  cycles : t.cpu.remainingCycles = s.cpu.remainingCycles

section
variable {i : Instr} {s t u : State}

theorem Footprint.trans (h : Footprint i s t) (k : Footprint i t u) : Footprint i s u where
  a w := (k.a w).trans (h.a w)
  x w := (k.x w).trans (h.x w)
  y w := (k.y w).trans (h.y w)
  sp w := (k.sp w).trans (h.sp w)
  p := k.p.trans h.p
  memory w := (h.memory w).trans (k.memory w)
  cycles := k.cycles.trans h.cycles

/-- A write of registers: each is one the instruction writes, or as before. -/
theorem Footprint.registers {c : Cpu} (ha : writesA i = true ∨ c.a = s.cpu.a := by exact .inr rfl)
    (hx : writesX i = true ∨ c.x = s.cpu.x := by exact .inr rfl)
    (hy : writesY i = true ∨ c.y = s.cpu.y := by exact .inr rfl)
    (hsp : writesSp i = true ∨ c.sp = s.cpu.sp := by exact .inr rfl)
    (hp : c.p &&& ~~~(flagsWritten i) = s.cpu.p &&& ~~~(flagsWritten i) := by rfl)
    (hcycles : c.remainingCycles = s.cpu.remainingCycles := by rfl) :
    Footprint i s { s with cpu := c } where
  a w := ha.resolve_left (Bool.eq_false_iff.mp w)
  x w := hx.resolve_left (Bool.eq_false_iff.mp w)
  y w := hy.resolve_left (Bool.eq_false_iff.mp w)
  sp w := hsp.resolve_left (Bool.eq_false_iff.mp w)
  p := hp
  memory _ := ⟨rfl, rfl, rfl, rfl, rfl⟩
  cycles := hcycles

theorem Footprint.refl (i : Instr) (s : State) : Footprint i s s := .registers

/-- Reads are in every footprint, and so is a halt. -/
theorem ReadFrame.footprint (h : ReadFrame s t) : Footprint i s t where
  a _ := by rw [h.cpu]
  x _ := by rw [h.cpu]
  y _ := by rw [h.cpu]
  sp _ := by rw [h.cpu]
  p := by rw [h.cpu]
  memory _ := ⟨h.ram, h.dma.1, h.cart, by rw [h.ppu], by rw [h.ppu]⟩
  cycles := by rw [h.cpu]

theorem Footprint.halt (r : HaltReason) : Footprint i s { s with halted := some r } :=
  ReadFrame.footprint ⟨rfl, rfl, rfl, ⟨rfl, rfl⟩, rfl, rfl, rfl, rfl, rfl⟩

/-- A bus write is in the footprint of an instruction that stores. -/
theorem WriteFrame.footprint (h : WriteFrame s t) (hi : storesMemory i = true) : Footprint i s t where
  a _ := by rw [h.cpu]
  x _ := by rw [h.cpu]
  y _ := by rw [h.cpu]
  sp _ := by rw [h.cpu]
  p := by rw [h.cpu]
  memory w := absurd hi (Bool.eq_false_iff.mp w)
  cycles := by rw [h.cpu]

theorem Footprint.bind {α β : Type} {m : Act α} {f : α → State → Act β} (hm : Footprint i s m.state)
    (hf : ∀ a t, Footprint i t (f a t).state) : Footprint i s (m.bind f).state :=
  Act.bind_keeps (Footprint i) (fun _ _ _ => Footprint.trans) m f s hm hf

/-- The cycles an instruction can add beyond its row and the page penalty: decimal mode (rules R187, R188) and a
taken branch (rule R212). -/
def addedCycles : Instr → Nat
  | .adc _ | .sbc _ => 1
  | .bcc _ | .bcs _ | .beq _ | .bne _ | .bmi _ | .bpl _ | .bvc _ | .bvs _ => 2
  | _ => 0

/-- An operation of instruction `i`: in its footprint, and with the cycles it can add. -/
structure Operates (i : Instr) (s : State) (m : Act Nat) : Prop where
  footprint : Footprint i s m.state
  added : ∀ k t, m = .ok k t → k ≤ addedCycles i

/-- An operation that ends in a write of registers. -/
theorem Operates.ok {k : Nat} (h : Footprint i s t) (hk : k ≤ addedCycles i := by exact Nat.zero_le _) :
    Operates i s (.ok k t) := ⟨h, fun _ _ hok => by cases hok; exact hk⟩

theorem Operates.bind {α : Type} {m : Act α} {f : α → State → Act Nat} (hm : Footprint i s m.state)
    (hf : ∀ a t, Operates i t (f a t)) : Operates i s (m.bind f) := by
  refine ⟨hm.bind fun a t => (hf a t).footprint, fun k u h => ?_⟩
  obtain ⟨a, t, -, h⟩ := (Act.bind_eq_ok _ _ _ _).mp h
  exact (hf a t).added k u h

theorem Operates.noExtra {m : Act Unit} (hm : Footprint i s m.state) : Operates i s (noExtra m) :=
  .bind hm fun _ t => .ok (.refl i t)

/-- The end of an instruction: halted with the cycle count as before, or with the count set. -/
def Ends (i : Instr) (s t : State) : Prop :=
  ∃ u, Footprint i s u ∧ (t = u ∨ ∃ n ≤ 7 + addedCycles i, t = u.setRemaining n)

theorem ends_of_halt {u : State} {base : Nat} (h : complete base (.halt u) = .next t)
    (hu : Footprint i s u) : Ends i s t := by
  cases h
  exact ⟨t, hu, .inl rfl⟩

/-- No row takes more than seven cycles, the page penalty counted in. -/
theorem row_cycles_le {mn : Mnemonic} {m : Mode} {row : Row} (h : rowFor mn m = some row) :
    row.baseCycles + (if row.pagePenalty then 1 else 0) ≤ 7 := by
  have table : opcodeTable.all (fun r => decide (r.baseCycles + (if r.pagePenalty then 1 else 0) ≤ 7)) := by decide
  exact of_decide_eq_true (List.all_eq_true.mp table row (rowFor_spec h).1)

theorem address_extra_le {p : Bool} {o : Operand} {r : Ref} {e : Nat} (h : address p o s = .ok (r, e) t) :
    e ≤ if p then 1 else 0 := by
  have page (b a : Word) : pageExtra p b a ≤ if p then 1 else 0 := by
    unfold pageExtra
    cases p
    · simp
    · split <;> decide
  cases o with
  | indirect | indirectX =>
    obtain ⟨_, _, -, h⟩ := (Act.bind_eq_ok _ _ _ _).mp h
    cases h
    exact Nat.zero_le _
  | indirectY =>
    obtain ⟨_, _, -, h⟩ := (Act.bind_eq_ok _ _ _ _).mp h
    cases h
    exact page _ _
  | absoluteX | absoluteY => cases h; exact page _ _
  | _ => cases h; exact Nat.zero_le _

/-- A mode names the accumulator exactly for an Accumulator operand. -/
theorem address_accumulator {p : Bool} {o : Operand} {r : Ref} {e : Nat} (h : address p o s = .ok (r, e) t) :
    r = .accumulator ↔ o = .accumulator := by
  cases o with
  | indirect | indirectX | indirectY =>
    obtain ⟨_, _, -, h⟩ := (Act.bind_eq_ok _ _ _ _).mp h
    cases h
    simp
  | _ => cases h; simp

/-- An instruction ends in its footprint if its operation, on the accumulator only in Accumulator mode, is in it. -/
theorem operate_ends {mn : Mnemonic} {o : Operand} {f : Ref → State → Act Nat}
    (hf : ∀ r u, (rowFor mn o.mode).isSome = true → (r = .accumulator ↔ o = .accumulator) → Operates i u (f r u))
    (h : operate mn o f s = .next t) : Ends i s t := by
  cases hrow : rowFor mn o.mode with
  | none =>
    simp only [operate, hrow] at h
    exact ends_of_halt h (.halt _)
  | some row =>
    rw [operate_row hrow] at h
    have ha := (address_frame row.pagePenalty o s).footprint (i := i)
    cases haddr : address row.pagePenalty o s with
    | halt u =>
      rw [haddr] at h ha
      exact ends_of_halt h ha
    | ok re u =>
      have hop := hf re.1 u (by rw [hrow]; rfl) (address_accumulator haddr)
      rw [haddr] at h ha
      cases hrun : f re.1 u with
      | halt v =>
        rw [Act.bind_ok, hrun] at h
        rw [hrun] at hop
        exact ends_of_halt h (ha.trans hop.footprint)
      | ok k v =>
        rw [Act.bind_ok, hrun] at h
        rw [hrun] at hop
        cases h
        refine ⟨v, ha.trans hop.footprint, .inr ⟨_, ?_, rfl⟩⟩
        have hbase := row_cycles_le hrow
        have hpage := address_extra_le haddr
        have hmore := hop.added k v rfl
        omega

/-- An operation that reads its operand byte and then writes registers. -/
theorem Operates.read {r : Ref} {f : Byte → State → Act Nat} (hf : ∀ m u, Operates i u (f m u)) :
    Operates i s ((readRef r s).bind f) := .bind (readRef_frame r s).footprint hf

/-- A write-back to memory is a bus write; one to the accumulator is in the footprint of what writes it. -/
theorem Footprint.writeRef {r : Ref} {v : Byte} (hA : r = .accumulator → writesA i = true)
    (hM : r ≠ .accumulator → storesMemory i = true) : Footprint i s (writeRef r v s).state := by
  cases r with
  | none | value => exact .halt _
  | accumulator => exact .registers (ha := .inl (hA rfl))
  | memory a => exact (memWrite_frame a v s).footprint (hM nofun)

theorem Footprint.push (hi : storesMemory i = true) (hsp : writesSp i = true) (v : Byte) :
    Footprint i s (push v s).state :=
  ((memWrite_frame _ v s).footprint hi).bind fun _ _ => .registers (hsp := .inl hsp)

theorem Footprint.pull (hsp : writesSp i = true) : Footprint i s (pull s).state :=
  Footprint.trans (t := s.setSp (s.cpu.sp + 1)) (.registers (hsp := .inl hsp)) (memRead_frame _ _).footprint

theorem Footprint.pull16 (hsp : writesSp i = true) : Footprint i s (pull16 s).state :=
  (Footprint.pull hsp).bind fun _ _ => (Footprint.pull hsp).bind fun _ _ => .refl i _

theorem Footprint.push16 (hi : storesMemory i = true) (hsp : writesSp i = true) (a : Word) :
    Footprint i s (push16 a s).state :=
  (Footprint.push hi hsp _).bind fun _ _ => .push hi hsp _

theorem Footprint.jumpRef (r : Ref) : Footprint i s (jumpRef r s).state := by
  cases r with
  | memory => exact .registers
  | _ => exact .halt _

theorem Operates.branch (cond : Byte → Bool) (r : Ref) (hi : addedCycles i = 2) :
    Operates i s (branchWhen cond r s) := by
  unfold branchWhen
  split
  · refine .bind (.jumpRef r) fun _ t => .ok (.refl i t) ?_
    rw [hi, takenExtra]
    split <;> decide
  · exact .ok (.refl i s)

theorem Footprint.breakEntry (hi : storesMemory i = true) (hsp : writesSp i = true)
    (hI : maskI &&& ~~~(flagsWritten i) = 0) : Footprint i s (breakEntry s).state :=
  (Footprint.push16 hi hsp _).bind fun _ u => (Footprint.push hi hsp _).bind fun _ v => by
    refine Footprint.bind (m := read16 irqVector _) ?_ fun _ _ => .registers
    exact Footprint.trans (t := v.setP (withFlag maskI true v.cpu.p)) (.registers (hp := withFlag_outside hI _ _))
      ((memRead_frame _ _).footprint.bind fun _ _ => (memRead_frame _ _).footprint.bind fun _ _ => .refl i _)

theorem Footprint.returnFromInterrupt (hsp : writesSp i = true) (hp : flagsWritten i = 0xFF) :
    Footprint i s (returnFromInterrupt s).state :=
  (Footprint.pull hsp).bind fun b u => by
    have all (q q' : Byte) : q &&& ~~~(flagsWritten i) = q' &&& ~~~(flagsWritten i) := by simp [hp]
    refine Footprint.bind (m := Machine.pull16 _) ?_ fun _ _ => .registers
    exact Footprint.trans (t := u.setP (pulledStatus b)) (.registers (hp := all _ _)) (.pull16 hsp)

/-- An operation that only writes registers. -/
theorem ends_plain {f : State → State} {mn : Mnemonic} (hf : ∀ u, Footprint i u (f u))
    (h : operate mn .implied (plain f) s = .next t) : Ends i s t :=
  operate_ends (fun _ u _ _ => .ok (hf u)) h

/-- A mnemonic without an Accumulator row never writes back to the accumulator. -/
theorem Footprint.writeBack {mn : Mnemonic} {o : Operand} {r : Ref} {v : Byte} (hi : storesMemory i = true)
    (hA : rowFor mn .accumulator = none) (hrow : (rowFor mn o.mode).isSome = true)
    (hr : r = .accumulator ↔ o = .accumulator) : Footprint i s (Machine.writeRef r v s).state := by
  refine .writeRef (fun h => ?_) fun _ => hi
  rw [hr.mp h, Operand.mode, hA] at hrow
  cases hrow

theorem ends_store {get : Cpu → Byte} {mn : Mnemonic} {o : Operand} (hi : storesMemory i = true)
    (hA : rowFor mn .accumulator = none) (h : operate mn o (storeFrom get) s = .next t) : Ends i s t :=
  operate_ends (fun _ _ hrow hr => .noExtra (.writeBack hi hA hrow hr)) h

/-- `P` after the write-back is the status of the old `P`. -/
theorem ends_modify {f : Byte → Byte → Byte × Byte} {mn : Mnemonic} {o : Operand}
    (hi : storesMemory i = true) (hA : rowFor mn .accumulator = none)
    (hf : ∀ m p, (f m p).2 &&& ~~~(flagsWritten i) = p &&& ~~~(flagsWritten i))
    (h : operate mn o (modifyOperand f) s = .next t) : Ends i s t := by
  refine operate_ends (fun r u hrow hr => .read fun m v => .noExtra ?_) h
  have hw := Footprint.writeBack (s := v) (v := (f m v.cpu.p).1) hi hA hrow hr
  cases hcase : Machine.writeRef r (f m v.cpu.p).1 v with
  | ok _ w =>
    rw [hcase] at hw
    exact hw.trans (.registers (hp := (hf m v.cpu.p).trans hw.p.symm))
  | halt w =>
    rw [hcase] at hw
    exact hw

theorem ends_shift {f : Byte → Byte → Byte × Byte} {mn : Mnemonic} {o : Operand}
    (hA : o = .accumulator → writesA i = true) (hM : o ≠ .accumulator → storesMemory i = true)
    (hf : ∀ m p, (f m p).2 &&& ~~~(flagsWritten i) = p &&& ~~~(flagsWritten i))
    (h : operate mn o (shiftOperand f) s = .next t) : Ends i s t := by
  refine operate_ends (fun r u _ hr => .read fun m v => .noExtra ?_) h
  exact Footprint.trans (t := v.setP (f m v.cpu.p).2) (.registers (hp := hf m v.cpu.p))
    (.writeRef (fun h => hA (hr.mp h)) fun h => hM (mt hr.mpr h))

end

theorem decimalExtra_le (p : Byte) : decimalExtra p ≤ 1 := by
  unfold decimalExtra
  split <;> decide

/-- Every instruction ends in its footprint. -/
theorem exec_ends {i : Instr} {s t : State} (h : exec i s = .next t) : Ends i s t := by
  unfold exec at h
  cases i with
  | lda =>
    refine operate_ends (fun r u _ _ => Operates.read fun m v => .ok ?_) h
    exact .registers (ha := .inl rfl) (hp := setNZ_outside _ _)
  | ldx =>
    refine operate_ends (fun r u _ _ => Operates.read fun m v => .ok ?_) h
    exact .registers (hx := .inl rfl) (hp := setNZ_outside _ _)
  | ldy =>
    refine operate_ends (fun r u _ _ => Operates.read fun m v => .ok ?_) h
    exact .registers (hy := .inl rfl) (hp := setNZ_outside _ _)
  | and | ora | eor =>
    refine operate_ends (fun r u _ _ => Operates.read fun m v => .ok ?_) h
    exact .registers (ha := .inl rfl) (hp := setNZ_outside _ _)
  | adc =>
    refine operate_ends (fun r u _ _ => Operates.read fun m v => .ok ?_ (decimalExtra_le _)) h
    exact .registers (ha := .inl rfl) (hp := adcResult_outside _ _ _)
  | sbc =>
    refine operate_ends (fun r u _ _ => Operates.read fun m v => .ok ?_ (decimalExtra_le _)) h
    exact .registers (ha := .inl rfl) (hp := sbcResult_outside _ _ _)
  | cmp | cpx | cpy =>
    refine operate_ends (fun r u _ _ => Operates.read fun m v => .ok ?_) h
    exact .registers (hp := setNZ_carry_outside _ _ _)
  | bit =>
    refine operate_ends (fun r u _ _ => Operates.read fun m v => .ok ?_) h
    exact .registers (hp := bitFlags_outside _ _ _)
  | sta | stx | sty => exact ends_store rfl rfl h
  | inc | dec => exact ends_modify rfl rfl (fun m p => setNZ_outside _ _) h
  | asl | lsr | rol | ror =>
    exact ends_shift (by rintro rfl; rfl) bne_iff_ne.mpr (fun m p => setNZ_carry_outside _ _ _) h
  | tax | tsx | inx | dex =>
    refine ends_plain (fun u => ?_) h
    exact .registers (hx := .inl rfl) (hp := setNZ_outside _ _)
  | tay | iny | dey =>
    refine ends_plain (fun u => ?_) h
    exact .registers (hy := .inl rfl) (hp := setNZ_outside _ _)
  | txa | tya =>
    refine ends_plain (fun u => ?_) h
    exact .registers (ha := .inl rfl) (hp := setNZ_outside _ _)
  | txs =>
    refine ends_plain (fun u => ?_) h
    exact .registers (hsp := .inl rfl)
  | clc | sec | cli | sei | clv | cld | sed =>
    refine ends_plain (fun u => ?_) h
    exact .registers (hp := withFlag_outside rfl _ _)
  | nop => exact ends_plain (fun u => .refl _ u) h
  | pha | php =>
    refine operate_ends (fun r u _ _ => ?_) h
    exact Operates.noExtra (.push rfl rfl _)
  | pla =>
    refine operate_ends (fun r u _ _ => Operates.bind (.pull rfl) fun b v => .ok ?_) h
    exact .registers (ha := .inl rfl) (hp := setNZ_outside _ _)
  | plp =>
    have all (p q : Byte) : p &&& ~~~(flagsWritten .plp) = q &&& ~~~(flagsWritten .plp) := by simp [flagsWritten]
    refine operate_ends (fun r u _ _ => Operates.bind (.pull rfl) fun b v => .ok ?_) h
    exact .registers (hp := all _ _)
  | bcc | bcs | beq | bne | bmi | bpl | bvc | bvs =>
    refine operate_ends (fun r u _ _ => ?_) h
    exact Operates.branch _ r rfl
  | jmp =>
    refine operate_ends (fun r u _ _ => ?_) h
    exact Operates.noExtra (.jumpRef r)
  | jsr =>
    refine operate_ends (fun r u _ _ => ?_) h
    exact Operates.noExtra ((Footprint.push16 rfl rfl _).bind fun _ v => .jumpRef r)
  | rts =>
    refine operate_ends (fun r u _ _ => Operates.bind (.pull16 rfl) fun a v => .ok ?_) h
    exact .registers
  | brk =>
    refine operate_ends (fun r u _ _ => ?_) h
    exact Operates.noExtra (.breakEntry rfl rfl rfl)
  | rti =>
    refine operate_ends (fun r u _ _ => ?_) h
    exact Operates.noExtra (.returnFromInterrupt rfl rfl)
  | illegal => exact ends_of_halt h (.halt _)

/-- What an instruction leaves of the registers, of `P` and of the memories, whatever its cycle count. -/
theorem exec_footprint {i : Instr} {s t : State} (h : exec i s = .next t) :
    ∃ n, Footprint i s (t.setRemaining n) := by
  obtain ⟨u, hu, rfl | ⟨n, -, rfl⟩⟩ := exec_ends h
  · exact ⟨_, hu⟩
  · exact ⟨u.cpu.remainingCycles, hu⟩

end Sys2Proof.Machine
end

section
/-! The writers of the registers, O28, and of the flags, O29. -/

section

open Sys2Proof Sys2Proof.Machine

/-- Settles O28: the registers of `exec_footprint`. -/
theorem registersHaveOnlyTheirWriters : Obligations.RegistersHaveOnlyTheirWriters := by
  unfold Obligations.RegistersHaveOnlyTheirWriters
  intro i s t h
  obtain ⟨n, ha, hx, hy, hsp, -⟩ := exec_footprint h
  exact ⟨ha, hx, hy, hsp⟩

/-- Settles O29: the flags of `exec_footprint`. -/
theorem flagsHaveOnlyTheirWriters : Obligations.FlagsHaveOnlyTheirWriters := by
  unfold Obligations.FlagsHaveOnlyTheirWriters
  intro i s t h
  obtain ⟨n, hframe⟩ := exec_footprint h
  exact hframe.p

end
end

section
/-! SUPPORT. The system step as its parts (rules R240, R243): a relation between the states before and after that
the dots, a boundary, the tick's count and OAM DMA keep, every system step keeps. -/

namespace Sys2Proof.Machine

/-- A tick does nothing on a halted machine, runs a boundary where no cycles remain, and else only counts. -/
theorem tick_cases {s t : State} (h : tick s = .next t) :
    (s.halted.isSome = true ∧ t = s) ∨
    (s.halted = none ∧ s.cpu.remainingCycles = 0 ∧ ∃ u, boundary s = .next u ∧ t = countTick u) ∨
    (s.halted = none ∧ s.cpu.remainingCycles ≠ 0 ∧ t = countTick s) := by
  unfold tick at h
  split at h
  · next hs => cases h; exact .inl ⟨hs, rfl⟩
  · next hs =>
    rw [Bool.not_eq_true, Option.isSome_eq_false_iff, Option.isNone_iff_eq_none] at hs
    split at h
    · next hn =>
      obtain ⟨u, hu, -⟩ := boundary_ticks s
      rw [hu] at h
      cases h
      exact .inr (.inl ⟨hs, hn, u, hu, rfl⟩)
    · next hn => cases h; exact .inr (.inr ⟨hs, hn, rfl⟩)

/-- A system step is nothing on a halted machine, and else three dots, a tick and any OAM DMA. -/
theorem step_cases {s t : State} (h : step s = .next t) :
    (s.halted.isSome = true ∧ t = s) ∨
    (s.halted = none ∧ ∃ u, tick (threeDots s) = .next u ∧ t = serveDma u) := by
  cases hs : s.halted with
  | some r =>
    have hsome : s.halted.isSome = true := by rw [hs]; rfl
    rw [step_of_halted hsome] at h
    cases h
    exact .inl ⟨rfl, rfl⟩
  | none =>
    obtain ⟨u, hu, -⟩ := tick_next (threeDots s)
    rw [step_of_tick hs hu] at h
    cases h
    exact .inr ⟨rfl, u, hu, rfl⟩

/-- A relation that every part of a system step keeps. -/
structure StepRel (R : State → State → Prop) : Prop where
  refl : ∀ s, R s s
  trans : ∀ a b c, R a b → R b c → R a c
  dot : ∀ s, R s (dot s)
  boundary : ∀ s t, boundary s = .next t → R s t
  count : ∀ s, R s (countTick s)
  dma : ∀ s, R s (serveDma s)

section
variable {R : State → State → Prop}

theorem StepRel.tick (h : StepRel R) {s t : State} (ht : tick s = .next t) : R s t := by
  rcases tick_cases ht with ⟨-, rfl⟩ | ⟨-, -, u, hu, rfl⟩ | ⟨-, -, rfl⟩
  · exact h.refl t
  · exact h.trans _ _ _ (h.boundary s u hu) (h.count u)
  · exact h.count s

/-- Every system step keeps it. -/
theorem StepRel.step (h : StepRel R) {s t : State} (hs : step s = .next t) : R s t := by
  rcases step_cases hs with ⟨-, rfl⟩ | ⟨-, u, hu, rfl⟩
  · exact h.refl t
  · have dots : R s (threeDots s) :=
      h.trans _ _ _ (h.dot s) (h.trans _ _ _ (h.dot _) (h.dot _))
    exact h.trans _ _ _ dots (h.trans _ _ _ (h.tick hu) (h.dma u))

/-- OAM DMA is reads, writes of OAM, and at its end the cycles and the request. -/
theorem serveDma_keeps (refl : ∀ s, R s s) (trans : ∀ a b c, R a b → R b c → R a c)
    (read : ∀ a s, R s (memRead a s).state) (oam : ∀ b s, R s { s with ppu := writeOam b s.ppu })
    (done : ∀ s n, R s { s with cpu.remainingCycles := n, bus.dmaRequest := false }) (s : State) :
    R s (serveDma s) := by
  have copy (n i : Nat) (s : State) : R s (dmaCopy n i s).state := by
    induction n generalizing i s with
    | zero => exact refl s
    | succ n ih =>
      exact Act.bind_keeps R trans _ _ s (read _ s) fun b t => trans _ _ _ (oam b t) (ih (i + 1) _)
  have hcopy := copy 256 0 s
  unfold serveDma oamDma
  split
  · split
    · exact refl s
    · split
      · next t h => rwa [h] at hcopy
      · next t h =>
        rw [h] at hcopy
        exact trans _ _ _ hcopy (done t _)
  · exact refl s

/-- A relation that says nothing of the CPU, and that bus accesses, a raise, a dot and the writes of OAM keep. -/
theorem InstrRel.stepRel (h : InstrRel R) (cpu : ∀ s c, R s { s with cpu := c })
    (frame : ∀ s, R s (resetFrame s)) (clock : ∀ s, R s (clock s).2)
    (oam : ∀ b s, R s { s with ppu := writeOam b s.ppu })
    (request : ∀ s, R s { s with bus.dmaRequest := false }) : StepRel R where
  refl := h.refl
  trans := h.trans
  dot s := by
    have latch (e : PpuEvent) (u : State) : R u (forward e u) := by
      cases e with
      | generateNMI | generateIRQ => exact cpu u _
      | generateNoInterrupt => exact h.refl u
    exact h.trans _ _ _ (frame s) (h.trans _ _ _ (clock _) (latch _ _))
  boundary s t ht := by
    obtain ⟨u, hu, hr⟩ := boundary_keeps h (fun s _ _ => cpu s _) s
    rw [ht] at hu
    cases hu
    exact hr
  count s := by
    unfold countTick
    split
    · exact h.refl s
    · exact cpu s _
  dma := serveDma_keeps h.refl h.trans h.read oam fun s _ => h.trans _ _ _ (request s) (cpu _ _)

end

end Sys2Proof.Machine
end

section
/-! SUPPORT. The invariant of the status register (rules R25, D12, D47) through a system step: no instruction but
PLP and RTI writes bits 4 and 5, and those two normalise them. -/

namespace Sys2Proof.Machine

/-- The invariant is kept. -/
def KeepsStatus (s t : State) : Prop := StatusInv s → StatusInv t

theorem keepsStatus_of_p {s t : State} (h : t.cpu.p = s.cpu.p) : KeepsStatus s t := by
  intro hs
  rw [StatusInv, h]
  exact hs

theorem keepsStatus_of_cpu {s t : State} (h : t.cpu = s.cpu) : KeepsStatus s t :=
  keepsStatus_of_p (congrArg Cpu.p h)

/-- The status PLP and RTI load meets the invariant. -/
theorem pulledStatus_inv (b : Byte) : pulledStatus b &&& 0x30 = 0x20 := by
  rw [pulledStatus]
  refine BitVec.eq_of_getLsbD_eq fun i hi => ?_
  interval_cases i <;> simp

/-- Outside PLP and RTI the listed flags do not include bits 4 and 5. -/
theorem flagsWritten_spares (i : Instr) (h : i ≠ .plp ∧ i ≠ .rti) : ~~~(flagsWritten i) &&& 0x30 = 0x30 := by
  cases i with
  | plp => exact absurd rfl h.1
  | rti => exact absurd rfl h.2
  | _ => simp only [flagsWritten]; decide

theorem exec_keepsStatus {i : Instr} {s t : State} (h : exec i s = .next t) : KeepsStatus s t := by
  intro hs
  by_cases hplp : i = .plp
  · obtain ⟨-, -, -, hexec⟩ := stackInstructionsComplete s
    rw [hplp, hexec] at h
    cases h
    exact pulledStatus_inv _
  by_cases hrti : i = .rti
  · rw [hrti, returnFromInterruptCompletes s] at h
    cases h
    exact pulledStatus_inv _
  obtain ⟨n, hframe⟩ := exec_footprint h
  have hspare := flagsWritten_spares i ⟨hplp, hrti⟩
  have key (q : Byte) : q &&& 0x30 = (q &&& ~~~(flagsWritten i)) &&& 0x30 := by
    rw [BitVec.and_assoc, hspare]
  rw [StatusInv, key, show t.cpu.p &&& _ = _ from hframe.p, ← key]
  exact hs

/-- An exception entry sets `P.I` alone. -/
theorem takeInterrupt_keepsStatus {vector : Word} {s t : State} (hv : 0x8000 ≤ vector.toNat)
    (hv' : vector.toNat < 0xFFFF) (h : takeInterrupt vector s = .next t) : KeepsStatus s t := by
  rw [takeInterrupt, interruptEntry, enterException_eq _ _ _ s hv hv'] at h
  cases h
  intro hs
  have hI : withFlag maskI true s.cpu.p &&& 0x30 = s.cpu.p &&& 0x30 :=
    withFlag_outside (flag := maskI) (mask := 0xCF) rfl true s.cpu.p
  exact hI.trans hs

/-- Fetching writes `PC` alone of the registers. -/
theorem fetchInstr_p (s : State) : (fetchInstr s).state.cpu.p = s.cpu.p := by
  have trans (a b c : State) (h : b.cpu.p = a.cpu.p) (k : c.cpu.p = b.cpu.p) : c.cpu.p = a.cpu.p := k.trans h
  have read (a : Word) (u : State) : (memRead a u).state.cpu.p = u.cpu.p := by rw [(memRead_frame a u).cpu]
  have fetch (u : State) : (fetch u).state.cpu.p = u.cpu.p :=
    Act.bind_keeps (fun a b => b.cpu.p = a.cpu.p) trans _ _ u (read _ u) fun _ _ => rfl
  refine Act.bind_keeps (fun a b => b.cpu.p = a.cpu.p) trans _ _ s (fetch s) fun op u => ?_
  unfold fetchOperands
  split
  · rfl
  · refine Act.bind_keeps (fun a b => b.cpu.p = a.cpu.p) trans _ _ u ?_ fun _ _ => rfl
    split
    · exact read _ (u.setPc (u.cpu.pc + 1))
    · exact fetch u
  · exact Act.bind_keeps (fun a b => b.cpu.p = a.cpu.p) trans _ _ u (fetch u) fun _ v =>
      Act.bind_keeps (fun a b => b.cpu.p = a.cpu.p) trans _ _ v (fetch v) fun _ _ => rfl

theorem runInstr_keepsStatus {s t : State} (h : runInstr s = .next t) : KeepsStatus s t := by
  have hp := fetchInstr_p s
  unfold runInstr at h
  split at h
  · next i u hi =>
    rw [hi] at hp
    exact fun hs => exec_keepsStatus h (keepsStatus_of_p hp hs)
  · next u hu =>
    rw [hu] at hp
    cases h
    exact keepsStatus_of_p hp

theorem boundary_keepsStatus {s t : State} (h : boundary s = .next t) : KeepsStatus s t := by
  unfold boundary at h
  split at h
  · exact fun hs => takeInterrupt_keepsStatus (vector := nmiVector) (by decide) (by decide) h hs
  · dsimp only at h
    split at h
    · exact fun hs => takeInterrupt_keepsStatus (vector := irqVector) (by decide) (by decide) h hs
    · exact fun hs => runInstr_keepsStatus h hs

theorem forward_p (e : PpuEvent) (s : State) : (forward e s).cpu.p = s.cpu.p := by cases e <;> rfl

theorem keepsStatus_rel : StepRel KeepsStatus where
  refl _ hs := hs
  trans _ _ _ h k hs := k (h hs)
  dot s := keepsStatus_of_p (by simp [dot, forward_p])
  boundary _ _ := boundary_keepsStatus
  count s := by
    refine keepsStatus_of_p ?_
    unfold countTick
    split <;> rfl
  dma := serveDma_keeps (fun _ hs => hs) (fun _ _ _ h k hs => k (h hs))
    (fun a s => keepsStatus_of_cpu (memRead_frame a s).cpu) (fun _ _ hs => hs) fun _ _ hs => hs

end Sys2Proof.Machine
end

section
/-! The invariant of the status register, O55. -/

section

open Sys2Proof Sys2Proof.Machine

/-- Settles O55: `keepsStatus_rel`, part by part of the system step. -/
theorem statusInvariantKept : Obligations.StatusInvariantKept := by
  unfold Obligations.StatusInvariantKept
  exact fun s t hs h => keepsStatus_rel.step h hs

end
end

section
/-! SUPPORT. The constants of the load (rules R41, R340) through a system step. -/

namespace Sys2Proof.Machine

/-- The cartridge's frame of a bus write, and CHR-ROM as before. -/
structure LoadKept (c d : Cart) : Prop where
  frame : CartFrame c d
  chr : 0 < c.chrUnits → d.chr = c.chr

theorem LoadKept.refl (c : Cart) : LoadKept c c := ⟨CartFrame.refl c, fun _ => rfl⟩

theorem LoadKept.trans {a b c : Cart} (h : LoadKept a b) (k : LoadKept b c) : LoadKept a c where
  frame := h.frame.trans k.frame
  chr hchr := by
    obtain ⟨-, -, -, hunits, -⟩ := h.frame.constants
    exact (k.chr (hunits ▸ hchr)).trans (h.chr hchr)

theorem BankFrame.loadKept {c d : Cart} (h : BankFrame c d) : LoadKept c d := ⟨h.toCart, fun _ => h.chr⟩

theorem ppuWrite_loadKept (a : PpuAddr) (v : Byte) (s : State) : LoadKept s.cart (ppuWrite a v s).state.cart := by
  refine ⟨(ppuWrite_frame a v s).cart, fun hchr => ?_⟩
  unfold ppuWrite
  split
  · have hrom : cartWritePpu s.cart a v = none := if_neg (by omega)
    rw [hrom]
    rfl
  · split <;> rfl

theorem ppuPortWrite_loadKept (port : BitVec 3) (v : Byte) (s : State) :
    LoadKept s.cart (ppuPortWrite port v s).state.cart := by
  unfold ppuPortWrite
  iterate 7 (split; · exact LoadKept.refl _)
  exact Act.bind_keeps (fun s t => LoadKept s.cart t.cart) (fun _ _ _ => LoadKept.trans) _ _ s
    (ppuWrite_loadKept _ v s) fun _ _ => LoadKept.refl _

theorem ioWrite_cart (a : Word) (v : Byte) (s : State) : (ioWrite a v s).cart = s.cart := by
  unfold ioWrite
  repeat' split
  all_goals rfl

theorem memWrite_loadKept (a : Word) (v : Byte) (s : State) : LoadKept s.cart (memWrite a v s).state.cart := by
  unfold memWrite writeValue
  split
  · exact LoadKept.refl _
  split
  · exact ppuPortWrite_loadKept _ v (s.setOpenBus v)
  split
  · rw [Act.state_ok, ioWrite_cart]
    exact LoadKept.refl _
  split
  · exact LoadKept.refl _
  split
  · next c h =>
    rcases cartWriteCpu_cases h with rfl | ⟨-, -, rfl⟩ | ⟨-, rfl⟩
    · exact LoadKept.refl _
    · exact ⟨⟨rfl, rfl⟩, fun _ => rfl⟩
    · exact (mapperWrite_frame a v _).1.loadKept
  · exact LoadKept.refl _

theorem loadKept_instrRel : InstrRel fun s t => LoadKept s.cart t.cart where
  trans _ _ _ := LoadKept.trans
  registers _ _ _ _ _ := LoadKept.refl _
  raise _ _ := LoadKept.refl _
  read a s := by
    rw [(memRead_frame a s).cart]
    exact LoadKept.refl _
  write := memWrite_loadKept

@[simp] theorem resetFrame_cart (s : State) : (resetFrame s).cart = s.cart := by
  unfold resetFrame
  split <;> rfl

/-- Of the cartridge a dot changes at most mapper 004's counter. -/
theorem clock_bankFrame (s : State) : BankFrame s.cart (clock s).2.cart := by
  rcases clock_cart s with ⟨-, h⟩ | ⟨-, h⟩ <;> rw [h]
  · exact (scanlineIrq_frame s.cart).1
  · exact BankFrame.refl _

theorem loadKept_rel : StepRel fun s t => LoadKept s.cart t.cart :=
  loadKept_instrRel.stepRel (fun _ _ => LoadKept.refl _) (fun s => by rw [resetFrame_cart]; exact LoadKept.refl _)
    (fun s => (clock_bankFrame s).loadKept) (fun _ _ => LoadKept.refl _) fun _ => LoadKept.refl _

end Sys2Proof.Machine
end

section
/-! The constants of the load, O57. -/

section

open Sys2Proof Sys2Proof.Machine

/-- Settles O57: `loadKept_rel`, part by part of the system step. -/
theorem loadedCartridgeIsConstant : Obligations.LoadedCartridgeIsConstant := by
  unfold Obligations.LoadedCartridgeIsConstant
  intro s t h
  obtain ⟨hframe, hchr⟩ := loadKept_rel.step h
  obtain ⟨hformat, htv, hprg, hchrUnits, hram, hrom⟩ := hframe.constants
  exact ⟨hframe.id, hformat, htv, hprg, hchrUnits, hram, hrom, hchr⟩

end
end

section
/-! SUPPORT. The PPU after a dot's action (rules R298, R300, R301), said once by the dots of each render state, and
the event it returns. -/

namespace Sys2Proof.Machine

section
variable (p : Ppu)

@[simp] theorem advance_v : (advance p).v = p.v := by rw [advance_frame]
@[simp] theorem advance_vblank : (advance p).vblank = p.vblank := by rw [advance_frame]
@[simp] theorem advance_sprite0Hit : (advance p).sprite0Hit = p.sprite0Hit := by rw [advance_frame]
@[simp] theorem advance_spriteOverflow : (advance p).spriteOverflow = p.spriteOverflow := by rw [advance_frame]
@[simp] theorem advance_secCount : (advance p).secCount = p.secCount := by rw [advance_frame]
@[simp] theorem advance_secIndex : (advance p).secIndex = p.secIndex := by rw [advance_frame]

end

@[simp] theorem scanlineHook_ppu (s : State) : (scanlineHook s).2.ppu = s.ppu := (scanlineHook_frame s).2.2

/-- A change of `v` while rendering leaves the rest of the PPU. -/
theorem whenRendering_ppu (f : Ppu → Scroll) (s : State) :
    (whenRendering f s).ppu = { s.ppu with v := if rendering s.ppu then f s.ppu else s.ppu.v } := by
  unfold whenRendering
  split <;> rfl

@[simp] theorem whenRendering_cycle (f : Ppu → Scroll) (s : State) :
    (whenRendering f s).ppu.cycle = s.ppu.cycle := by rw [whenRendering_ppu]

@[simp] theorem drawPixel_cycle (s : State) : (drawPixel s).ppu.cycle = s.ppu.cycle := rfl

/-- `drawPixel`, then fine Y at dot 256. -/
def drawDot (s : State) : State :=
  if s.ppu.cycle = 256 then whenRendering (fun p => incrementY p.v) (drawPixel s) else drawPixel s

/-- A dot of a Render line: the pixel in dots 1 to 256, the horizontal copy at dot 257, the sprites of the next line
at dot 340 (rule R298). -/
theorem renderDot_ppu (s : State) :
    (renderDot s).2.ppu =
      if 1 ≤ s.ppu.cycle ∧ s.ppu.cycle ≤ 256 then (drawDot s).ppu
      else if s.ppu.cycle = 257 then (whenRendering (fun p => copyHorizontal p.v p.t) s).ppu
      else if s.ppu.cycle = 340 then evaluateSprites s.ppu.scanline s.ppu else s.ppu := by
  by_cases hdraw : 1 ≤ s.ppu.cycle ∧ s.ppu.cycle ≤ 256
  · have h257 : s.ppu.cycle ≠ 257 := by omega
    have h340 : s.ppu.cycle ≠ 340 := by omega
    by_cases h256 : s.ppu.cycle = 256
    · simp [renderDot, drawDot, h256]
    · simp [renderDot, drawDot, hdraw, h256, h257, h340]
  · have h256 : s.ppu.cycle ≠ 256 := by omega
    by_cases h257 : s.ppu.cycle = 257
    · simp [renderDot, h257]
    · by_cases h340 : s.ppu.cycle = 340
      · simp [renderDot, h340]
      · simp [renderDot, hdraw, h256, h257, h340]

/-- A dot of the PreRender line: the flags at dot 1, the copies at dots 257 and 280 to 304, the cache at dot 339
(rule R301). -/
theorem preRenderDot_ppu (s : State) :
    (preRenderDot s).2.ppu =
      if s.ppu.cycle = 1 then
        { s.ppu with vblank := false, sprite0Hit := false, spriteOverflow := false }
      else if s.ppu.cycle = 257 then (whenRendering (fun p => copyHorizontal p.v p.t) s).ppu
      else if 280 ≤ s.ppu.cycle ∧ s.ppu.cycle ≤ 304 then (whenRendering (fun p => copyVertical p.v p.t) s).ppu
      else if s.ppu.cycle = 339 then { s.ppu with secCount := 0 } else s.ppu := by
  by_cases h1 : s.ppu.cycle = 1
  · simp [preRenderDot, h1]
  by_cases h257 : s.ppu.cycle = 257
  · simp [preRenderDot, h257]
  by_cases hcopy : 280 ≤ s.ppu.cycle ∧ s.ppu.cycle ≤ 304
  · have h339 : s.ppu.cycle ≠ 339 := by omega
    simp [preRenderDot, h1, h257, hcopy, h339, whenRendering_ppu]
  by_cases h339 : s.ppu.cycle = 339
  · simp [preRenderDot, h339]
  · simp [preRenderDot, h1, h257, hcopy, h339]

theorem vblankDot_ppu (s : State) :
    (vblankDot s).2.ppu =
      if s.ppu.scanline = 242 ∧ s.ppu.cycle = 0 then { s.ppu with vblank := true } else s.ppu := by
  unfold vblankDot
  by_cases h : s.ppu.scanline = 242 ∧ s.ppu.cycle = 0 <;> simp [h]

end Sys2Proof.Machine
end

section
/-! SUPPORT. The fields of a scroll register (rules R292 to R294): coarse X in bits 4:0, coarse Y in 9:5, the
nametable bits 10 and 11, fine Y in 14:12, through the increments and copies. -/

namespace Sys2Proof.Machine

theorem getLsbD_eq_div {w : Nat} (u : BitVec w) (k : Nat) : u.getLsbD k = decide (u.toNat / 2 ^ k % 2 = 1) := by
  rw [BitVec.getLsbD, Nat.testBit_eq_decide_div_mod_eq]

theorem getLsbD_congr {w : Nat} {u v : BitVec w} {k : Nat} (h : u.toNat / 2 ^ k % 2 = v.toNat / 2 ^ k % 2) :
    u.getLsbD k = v.getLsbD k := by
  rw [getLsbD_eq_div, getLsbD_eq_div, h]

/-- A field of a word, in numbers. -/
theorem field_toNat {w : Nat} (u : BitVec w) (start len : Nat) :
    (u.extractLsb' start len).toNat = u.toNat / 2 ^ start % 2 ^ len := by
  rw [BitVec.extractLsb'_toNat, Nat.shiftRight_eq_div_pow]

section
variable {w start len : Nat} {m k : BitVec w}

/-- A mask that holds a field keeps it. -/
theorem field_and_keep (v : BitVec w) (hm : m.extractLsb' start len = BitVec.allOnes len) :
    (v &&& m).extractLsb' start len = v.extractLsb' start len := by
  rw [BitVec.extractLsb'_and, hm, BitVec.and_allOnes]

/-- A mask without a field clears it. -/
theorem field_and_clear (v : BitVec w) (hm : m.extractLsb' start len = 0) : (v &&& m).extractLsb' start len = 0 := by
  rw [BitVec.extractLsb'_and, hm]
  exact BitVec.and_zero

/-- A word that is 0 in a field leaves it, under OR and XOR. -/
theorem field_or_keep (v : BitVec w) (hk : k.extractLsb' start len = 0) :
    (v ||| k).extractLsb' start len = v.extractLsb' start len := by
  rw [BitVec.extractLsb'_or, hk]
  exact BitVec.or_zero

theorem field_xor_keep (v : BitVec w) (hk : k.extractLsb' start len = 0) :
    (v ^^^ k).extractLsb' start len = v.extractLsb' start len := by
  rw [BitVec.extractLsb'_xor, hk]
  exact BitVec.xor_zero

/-- A word that is 0 in a field takes it from the other, under OR. -/
theorem field_or_take (v : BitVec w) (hk : k.extractLsb' start len = 0) :
    (k ||| v).extractLsb' start len = v.extractLsb' start len := by
  rw [BitVec.extractLsb'_or, hk]
  exact BitVec.zero_or

/-- One bit as a field. -/
theorem bit_of_field {u v : BitVec w} (h : u.extractLsb' start 1 = v.extractLsb' start 1) :
    u.getLsbD start = v.getLsbD start := by
  simpa using congrArg (·.getLsbD 0) h

end

theorem low5_eq_31 (v : Scroll) : v &&& 0x001F = 31 ↔ v.toNat % 32 = 31 := by
  have h : (v &&& 0x001F).toNat = v.toNat % 32 := by
    rw [BitVec.toNat_and]
    exact Nat.and_two_pow_sub_one_eq_mod v.toNat 5
  rw [← BitVec.toNat_inj, h]
  rfl

theorem high3_eq_7 (v : Scroll) : v &&& 0x7000 = 0x7000 ↔ (v.extractLsb' 12 3).toNat = 7 := by
  have hfield : (v &&& 0x7000).extractLsb' 12 3 = v.extractLsb' 12 3 := field_and_keep v rfl
  constructor
  · intro h
    rw [← hfield, h]
    rfl
  · intro h
    refine BitVec.eq_of_getLsbD_eq fun i hi => ?_
    have hall : v.extractLsb' 12 3 = 7 := BitVec.eq_of_toNat_eq h
    have h12 := congrArg (·.getLsbD 0) hall
    have h13 := congrArg (·.getLsbD 1) hall
    have h14 := congrArg (·.getLsbD 2) hall
    simp only [BitVec.getLsbD_extractLsb'] at h12 h13 h14
    rw [BitVec.getLsbD_and]
    interval_cases i <;> simp_all

/-- Coarse Y as `IncrementY` takes it. -/
theorem coarseY_word (v : Scroll) :
    (((v &&& 0x0FFF) >>> 5) &&& 0x1F).toNat = (v.extractLsb' 5 5).toNat := by
  rw [BitVec.toNat_and, BitVec.toNat_ushiftRight, BitVec.toNat_and, field_toNat, Nat.shiftRight_eq_div_pow]
  have h12 : v.toNat &&& (0x0FFF : Scroll).toNat = v.toNat % 4096 := Nat.and_two_pow_sub_one_eq_mod v.toNat 12
  rw [h12]
  refine (Nat.and_two_pow_sub_one_eq_mod _ 5).trans ?_
  omega

/-- The fields of `IncrementX` (rule R292). -/
theorem incrementX_fields (v : Scroll) :
    ((incrementX v).extractLsb' 0 5).toNat = ((v.extractLsb' 0 5).toNat + 1) % 32 ∧
    (incrementX v).getLsbD 10 = (v.getLsbD 10 != ((v.extractLsb' 0 5).toNat == 31)) ∧
    (incrementX v).extractLsb' 5 5 = v.extractLsb' 5 5 ∧
    (incrementX v).extractLsb' 12 3 = v.extractLsb' 12 3 ∧ (incrementX v).getLsbD 11 = v.getLsbD 11 := by
  unfold incrementX
  split
  · next h =>
    rw [low5_eq_31] at h
    have hcx : (v.extractLsb' 0 5).toNat = 31 := by rw [field_toNat]; omega
    refine ⟨?_, ?_, ?_, ?_, bit_of_field ?_⟩
    · rw [field_xor_keep _ rfl, field_and_clear _ rfl, hcx]
      rfl
    · rw [hcx]
      simp
    all_goals rw [field_xor_keep _ rfl, field_and_keep _ rfl]
  · next h =>
    rw [low5_eq_31] at h
    have hlt := v.isLt
    have hsum : (v + 1).toNat = v.toNat + 1 := by
      rw [BitVec.toNat_add]
      exact Nat.mod_eq_of_lt (by change v.toNat + 1 < 32768; omega)
    have hcx : (v.extractLsb' 0 5).toNat ≠ 31 := by rw [field_toNat]; omega
    refine ⟨?_, ?_, ?_, ?_, ?_⟩
    · rw [field_toNat, field_toNat, hsum]
      omega
    · rw [beq_eq_false_iff_ne.mpr hcx, Bool.bne_false]
      exact getLsbD_congr (by rw [hsum]; omega)
    · apply BitVec.eq_of_toNat_eq
      rw [field_toNat, field_toNat, hsum]
      omega
    · apply BitVec.eq_of_toNat_eq
      rw [field_toNat, field_toNat, hsum]
      omega
    · exact getLsbD_congr (by rw [hsum]; omega)

/-- `v` with fine Y and coarse Y cleared and a new coarse Y put in (rule R293). -/
theorem coarseY_fields (v w : Scroll) (hw : w.toNat < 32) :
    let u := (v &&& 0x7C1F) ||| (w <<< 5)
    (u.extractLsb' 5 5).toNat = w.toNat ∧ u.extractLsb' 0 5 = v.extractLsb' 0 5 ∧
    u.extractLsb' 12 3 = v.extractLsb' 12 3 ∧ u.getLsbD 10 = v.getLsbD 10 ∧ u.getLsbD 11 = v.getLsbD 11 := by
  have hshift : (w <<< 5).toNat = w.toNat * 32 := by
    rw [BitVec.toNat_shiftLeft, Nat.shiftLeft_eq]
    exact Nat.mod_eq_of_lt (by omega)
  have zero (start len : Nat) (h : w.toNat * 32 / 2 ^ start % 2 ^ len = 0) :
      (w <<< 5).extractLsb' start len = 0 := by
    apply BitVec.eq_of_toNat_eq
    rw [field_toNat, hshift, h]
    rfl
  refine ⟨?_, ?_, ?_, bit_of_field ?_, bit_of_field ?_⟩
  · rw [field_or_take _ (field_and_clear _ rfl), field_toNat, hshift]
    omega
  all_goals rw [field_or_keep _ (zero _ _ (by omega)), field_and_keep _ rfl]

theorem incrementY_fields (v : Scroll) :
    ((incrementY v).extractLsb' 12 3).toNat = ((v.extractLsb' 12 3).toNat + 1) % 8 ∧
    ((incrementY v).extractLsb' 5 5).toNat = (if (v.extractLsb' 12 3).toNat < 7 then (v.extractLsb' 5 5).toNat
      else if (v.extractLsb' 5 5).toNat = 29 then 0 else ((v.extractLsb' 5 5).toNat + 1) % 32) ∧
    (incrementY v).getLsbD 11 =
      (v.getLsbD 11 != ((v.extractLsb' 12 3).toNat == 7 && (v.extractLsb' 5 5).toNat == 29)) ∧
    (incrementY v).extractLsb' 0 5 = v.extractLsb' 0 5 ∧ (incrementY v).getLsbD 10 = v.getLsbD 10 := by
  have hlt := v.isLt
  have hfy : v &&& 0x7000 = 0x7000 ↔ (v.extractLsb' 12 3).toNat = 7 := high3_eq_7 v
  unfold incrementY
  by_cases h7 : (v.extractLsb' 12 3).toNat = 7
  · rw [if_neg (not_not.mpr (hfy.mpr h7)), h7]
    extract_lets w cy
    have hcy : cy.toNat = (v.extractLsb' 5 5).toNat := coarseY_word v
    have field (start len : Nat) (h : (0x0FFF : Scroll).extractLsb' start len = BitVec.allOnes len) :
        w.extractLsb' start len = v.extractLsb' start len := field_and_keep v h
    have hfy0 : w.extractLsb' 12 3 = 0 := field_and_clear v rfl
    by_cases h29 : (v.extractLsb' 5 5).toNat = 29
    · have hc : cy = 29 := BitVec.eq_of_toNat_eq (hcy.trans h29)
      rw [if_pos hc, h29]
      have hmask (start len : Nat) (h : (0x0800 : Scroll).extractLsb' start len = 0) :
          (w ^^^ 0x0800).extractLsb' start len = w.extractLsb' start len := field_xor_keep w h
      refine ⟨?_, ?_, ?_, ?_, bit_of_field ?_⟩
      · rw [field_and_keep _ rfl, hmask _ _ rfl, hfy0]
        rfl
      · rw [field_and_clear _ rfl]
        rfl
      · simp [w]
      · rw [field_and_keep _ rfl, hmask _ _ rfl, field _ _ rfl]
      · rw [field_and_keep _ rfl, hmask _ _ rfl, field _ _ rfl]
    · have hc : cy ≠ 29 := fun h => h29 (by rw [← hcy, h]; rfl)
      rw [if_neg hc]
      have hny : ((7 == 7) && ((v.extractLsb' 5 5).toNat == 29)) = false := by
        rw [beq_eq_false_iff_ne.mpr h29, Bool.and_false]
      rw [hny, Bool.bne_false, if_neg (Nat.lt_irrefl 7), if_neg h29]
      by_cases h31 : (v.extractLsb' 5 5).toNat = 31
      · have hc31 : cy = 31 := BitVec.eq_of_toNat_eq (hcy.trans h31)
        rw [if_pos hc31, h31]
        refine ⟨by rw [field_and_keep _ rfl, hfy0]; rfl, by rw [field_and_clear _ rfl]; rfl, bit_of_field ?_, ?_,
          bit_of_field ?_⟩
        all_goals rw [field_and_keep _ rfl, field _ _ rfl]
      · have hc' : cy ≠ 31 := fun h => h31 (by rw [← hcy, h]; rfl)
        have hlt5 := (v.extractLsb' 5 5).isLt
        have hnext : (cy + 1).toNat = (v.extractLsb' 5 5).toNat + 1 := by
          rw [BitVec.toNat_add, hcy]
          exact Nat.mod_eq_of_lt (by change _ + 1 < 32768; omega)
        obtain ⟨kcy, kcx, kfy, knx, kny⟩ := coarseY_fields w (cy + 1) (by omega)
        rw [if_neg hc']
        refine ⟨?_, ?_, ?_, ?_, ?_⟩
        · rw [kfy, hfy0]
          rfl
        · rw [kcy, hnext]
          omega
        · exact kny.trans (bit_of_field (field _ _ rfl))
        · exact kcx.trans (field _ _ rfl)
        · exact knx.trans (bit_of_field (field _ _ rfl))
  · rw [if_pos (mt hfy.mp h7)]
    rw [field_toNat] at h7
    have hsum : (v + 0x1000).toNat = v.toNat + 4096 := by
      rw [BitVec.toNat_add]
      exact Nat.mod_eq_of_lt (by change v.toNat + 4096 < 32768; omega)
    have h7' : ((v.extractLsb' 12 3).toNat == 7) = false := by
      rw [beq_eq_false_iff_ne, field_toNat]
      exact h7
    refine ⟨?_, ?_, ?_, ?_, ?_⟩
    · rw [field_toNat, field_toNat, hsum]
      omega
    · rw [if_pos (by rw [field_toNat]; omega), field_toNat, field_toNat, hsum]
      omega
    · rw [h7', Bool.false_and, Bool.bne_false]
      exact getLsbD_congr (by rw [hsum]; omega)
    · apply BitVec.eq_of_toNat_eq
      rw [field_toNat, field_toNat, hsum]
      omega
    · exact getLsbD_congr (by rw [hsum]; omega)

theorem copyHorizontal_fields (v t : Scroll) :
    (copyHorizontal v t).extractLsb' 0 5 = t.extractLsb' 0 5 ∧
    (copyHorizontal v t).getLsbD 10 = t.getLsbD 10 ∧
    (copyHorizontal v t).extractLsb' 5 5 = v.extractLsb' 5 5 ∧
    (copyHorizontal v t).extractLsb' 12 3 = v.extractLsb' 12 3 ∧
    (copyHorizontal v t).getLsbD 11 = v.getLsbD 11 := by
  unfold copyHorizontal
  refine ⟨?_, bit_of_field ?_, ?_, ?_, bit_of_field ?_⟩
  · rw [field_or_take _ (field_and_clear _ rfl), field_and_keep _ rfl]
  · rw [field_or_take _ (field_and_clear _ rfl), field_and_keep _ rfl]
  all_goals rw [field_or_keep _ (field_and_clear _ rfl), field_and_keep _ rfl]

theorem copyVertical_fields (v t : Scroll) :
    (copyVertical v t).extractLsb' 5 5 = t.extractLsb' 5 5 ∧
    (copyVertical v t).extractLsb' 12 3 = t.extractLsb' 12 3 ∧
    (copyVertical v t).getLsbD 11 = t.getLsbD 11 ∧
    (copyVertical v t).extractLsb' 0 5 = v.extractLsb' 0 5 ∧
    (copyVertical v t).getLsbD 10 = v.getLsbD 10 := by
  unfold copyVertical
  refine ⟨?_, ?_, bit_of_field ?_, ?_, bit_of_field ?_⟩
  iterate 3 rw [field_or_take _ (field_and_clear _ rfl), field_and_keep _ rfl]
  all_goals rw [field_or_keep _ (field_and_clear _ rfl), field_and_keep _ rfl]

end Sys2Proof.Machine
end

section
/-! SUPPORT. A dot by the machine's render state: which action a running machine takes, and `v` after it. -/

namespace Sys2Proof.Machine

theorem rendering_iff (p : Ppu) : rendering p = true ↔ p.mask.getLsbD 3 = true ∨ p.mask.getLsbD 4 = true := by
  simp [rendering]

section
variable {s : State}

/-- A halted machine and a finished frame stay. -/
theorem clock_idle (h : s.halted.isSome = true ∨ s.ppu.renderState = .finished) :
    clock s = (.generateNoInterrupt, s) := if_pos (by simpa using h)

/-- Any other machine takes its dot's action and advances. -/
theorem clock_runs (h : s.halted = none) (hf : s.ppu.renderState ≠ .finished) :
    clock s = ((dotAction s).1, { (dotAction s).2 with ppu := advance (dotAction s).2.ppu }) :=
  if_neg (by simp [h, hf])

theorem dotAction_render (hr : s.ppu.renderState = .render) : dotAction s = renderDot s := by
  rw [dotAction, hr]

theorem clock_render (h : s.halted = none) (hr : s.ppu.renderState = .render) :
    (clock s).1 = (renderDot s).1 ∧ (clock s).2.ppu = advance (renderDot s).2.ppu := by
  simp only [clock_runs h (by rw [hr]; decide), dotAction_render hr, and_self]

theorem dotAction_preRender (hr : s.ppu.renderState = .preRender) : dotAction s = preRenderDot s := by
  rw [dotAction, hr]

theorem clock_preRender (h : s.halted = none) (hr : s.ppu.renderState = .preRender) :
    (clock s).1 = (preRenderDot s).1 ∧ (clock s).2.ppu = advance (preRenderDot s).2.ppu := by
  simp only [clock_runs h (by rw [hr]; decide), dotAction_preRender hr, and_self]

theorem dotAction_vblank (hr : s.ppu.renderState = .verticalBlanking) : dotAction s = vblankDot s := by
  rw [dotAction, hr]

theorem clock_vblank (h : s.halted = none) (hr : s.ppu.renderState = .verticalBlanking) :
    (clock s).1 = (vblankDot s).1 ∧ (clock s).2.ppu = advance (vblankDot s).2.ppu := by
  simp only [clock_runs h (by rw [hr]; decide), dotAction_vblank hr, and_self]

/-- In the other states a dot requests nothing and moves the position at most. -/
theorem clock_quiet (h : s.halted.isSome = true ∨ s.ppu.renderState = .postRender ∨ s.ppu.renderState = .finished) :
    (clock s).1 = .generateNoInterrupt ∧ ((clock s).2.ppu = s.ppu ∨ (clock s).2.ppu = advance s.ppu) := by
  by_cases hidle : s.halted.isSome = true ∨ s.ppu.renderState = .finished
  · rw [clock_idle hidle]
    exact ⟨rfl, .inl rfl⟩
  · obtain ⟨hrun, hf⟩ := not_or.mp hidle
    have hpost : s.ppu.renderState = .postRender := (h.resolve_left hrun).resolve_right hf
    rw [Option.not_isSome_iff_eq_none] at hrun
    rw [clock_runs hrun hf, dotAction, hpost]
    exact ⟨rfl, .inr rfl⟩

/-- The four kinds of dot. -/
theorem dot_kinds (s : State) :
    s.halted = none ∧ s.ppu.renderState = .render ∨ s.halted = none ∧ s.ppu.renderState = .preRender ∨
    s.halted = none ∧ s.ppu.renderState = .verticalBlanking ∨
    (s.halted.isSome = true ∨ s.ppu.renderState = .postRender ∨ s.ppu.renderState = .finished) := by
  cases s.halted <;> cases s.ppu.renderState <;> simp

end

/-- `v` after the coarse increment of dots 1 to 256. -/
def movedScroll (s : State) : Scroll :=
  if (s.ppu.x.toNat + (s.ppu.cycle - 1)) % 8 = 7 then incrementX s.ppu.v else s.ppu.v

theorem drawPixel_v (s : State) :
    (drawPixel s).ppu.v = if rendering s.ppu then movedScroll s else s.ppu.v := by
  unfold drawPixel movedScroll
  cases rendering s.ppu <;> simp

theorem renderDot_v (s : State) :
    (renderDot s).2.ppu.v =
      if rendering s.ppu = false then s.ppu.v
      else if 1 ≤ s.ppu.cycle ∧ s.ppu.cycle ≤ 256 then
        (if s.ppu.cycle = 256 then incrementY (movedScroll s) else movedScroll s)
      else if s.ppu.cycle = 257 then copyHorizontal s.ppu.v s.ppu.t else s.ppu.v := by
  have hon : rendering (drawPixel s).ppu = rendering s.ppu := rfl
  rw [renderDot_ppu]
  by_cases hdraw : 1 ≤ s.ppu.cycle ∧ s.ppu.cycle ≤ 256
  · rw [if_pos hdraw, if_pos hdraw, drawDot]
    by_cases h256 : s.ppu.cycle = 256
    · rw [if_pos h256, if_pos h256, whenRendering_ppu, drawPixel_v, hon]
      cases rendering s.ppu <;> rfl
    · rw [if_neg h256, if_neg h256, drawPixel_v]
      cases rendering s.ppu <;> rfl
  · rw [if_neg hdraw, if_neg hdraw]
    by_cases h257 : s.ppu.cycle = 257
    · rw [if_pos h257, if_pos h257, whenRendering_ppu]
      cases rendering s.ppu <;> rfl
    · rw [if_neg h257, if_neg h257, ite_self]
      split <;> rfl

theorem preRenderDot_v (s : State) :
    (preRenderDot s).2.ppu.v =
      if rendering s.ppu = false then s.ppu.v
      else if s.ppu.cycle = 257 then copyHorizontal s.ppu.v s.ppu.t
      else if 280 ≤ s.ppu.cycle ∧ s.ppu.cycle ≤ 304 then copyVertical s.ppu.v s.ppu.t else s.ppu.v := by
  rw [preRenderDot_ppu]
  by_cases h1 : s.ppu.cycle = 1
  · have h257 : s.ppu.cycle ≠ 257 := by omega
    have hcopy : ¬ (280 ≤ s.ppu.cycle ∧ s.ppu.cycle ≤ 304) := by omega
    rw [if_pos h1, if_neg h257, if_neg hcopy, ite_self]
  · rw [if_neg h1]
    by_cases h257 : s.ppu.cycle = 257
    · rw [if_pos h257, if_pos h257, whenRendering_ppu]
      cases rendering s.ppu <;> rfl
    · rw [if_neg h257, if_neg h257]
      by_cases hcopy : 280 ≤ s.ppu.cycle ∧ s.ppu.cycle ≤ 304
      · rw [if_pos hcopy, if_pos hcopy, whenRendering_ppu]
        cases rendering s.ppu <;> rfl
      · rw [if_neg hcopy, if_neg hcopy, ite_self]
        split <;> rfl

theorem vblankDot_v (s : State) : (vblankDot s).2.ppu.v = s.ppu.v := by
  rw [vblankDot_ppu]
  split <;> rfl

end Sys2Proof.Machine
end

section
/-! The scroll increments and copies, O47. -/

section

open Sys2Proof Sys2Proof.Machine

/-- Settles O47: the fields of each formula, and `v` after a dot of each kind. -/
theorem scrollIncrementsByField : Obligations.ScrollIncrementsByField := by
  unfold Obligations.ScrollIncrementsByField
  refine ⟨fun v t => ?fields, fun s => ?dots⟩
  case fields =>
    obtain ⟨xcx, xnx, xcy, xfy, xny⟩ := incrementX_fields v
    obtain ⟨yfy, ycy, yny, ycx, ynx⟩ := incrementY_fields v
    obtain ⟨hcx, hnx, hcy, hfy, hny⟩ := copyHorizontal_fields v t
    obtain ⟨vcy, vfy, vny, vcx, vnx⟩ := copyVertical_fields v t
    exact ⟨⟨xcx, xnx, congrArg _ xcy, congrArg _ xfy, xny⟩, ⟨yfy, ycy, yny, congrArg _ ycx, ynx⟩,
      ⟨congrArg _ hcx, hnx, congrArg _ hcy, congrArg _ hfy, hny⟩,
      ⟨congrArg _ vcy, congrArg _ vfy, vny, congrArg _ vcx, vnx⟩⟩
  case dots =>
    intro p on isLine v'
    have on_iff (hrun : s.halted = none) : on ↔ rendering p ≠ false := by
      rw [Bool.ne_false_iff, rendering_iff]
      exact and_iff_right hrun
    have render (hrun : s.halted = none) (hr : p.renderState = .render) : v' = _ :=
      (congrArg Ppu.v (clock_render hrun hr).2).trans ((advance_v _).trans (renderDot_v s))
    have preRender (hrun : s.halted = none) (hr : p.renderState = .preRender) : v' = _ :=
      (congrArg Ppu.v (clock_preRender hrun hr).2).trans ((advance_v _).trans (preRenderDot_v s))
    refine ⟨fun hon hr h1 h256 => ?_, fun hon hl h257 => ?_, fun hon hr h280 h304 => ?_, fun hoff => ?_⟩
    · intro moved
      rw [render hon.1 hr, if_neg ((on_iff hon.1).mp hon),
        if_pos (show 1 ≤ s.ppu.cycle ∧ s.ppu.cycle ≤ 256 from ⟨h1, h256⟩)]
      rfl
    · have hdraw : ¬ (1 ≤ s.ppu.cycle ∧ s.ppu.cycle ≤ 256) := by simp only [p] at h257; omega
      rcases hl with hr | hr
      · rw [render hon.1 hr, if_neg ((on_iff hon.1).mp hon), if_neg hdraw, if_pos h257]
      · rw [preRender hon.1 hr, if_neg ((on_iff hon.1).mp hon), if_pos h257]
    · have h257 : s.ppu.cycle ≠ 257 := by simp only [p] at h280; omega
      rw [preRender hon.1 hr, if_neg ((on_iff hon.1).mp hon), if_neg h257,
        if_pos (show 280 ≤ s.ppu.cycle ∧ s.ppu.cycle ≤ 304 from ⟨h280, h304⟩)]
    · rcases dot_kinds s with ⟨hrun, hr⟩ | ⟨hrun, hr⟩ | ⟨hrun, hr⟩ | hquiet
      · rw [render hrun hr]
        split
        · rfl
        · next hon =>
          have hnone := (not_and.mp hoff) ((on_iff hrun).mpr hon)
          obtain ⟨hdraw, hrest⟩ := not_or.mp hnone
          rw [if_neg fun h => hdraw ⟨hr, h⟩, if_neg fun h => hrest (.inl ⟨.inl hr, h⟩)]
      · rw [preRender hrun hr]
        split
        · rfl
        · next hon =>
          have hnone := (not_and.mp hoff) ((on_iff hrun).mpr hon)
          obtain ⟨-, hrest⟩ := not_or.mp hnone
          rw [if_neg fun h => hrest (.inl ⟨.inr hr, h⟩), if_neg fun h => hrest (.inr ⟨hr, h⟩)]
      · exact (congrArg Ppu.v (clock_vblank hrun hr).2).trans ((advance_v _).trans (vblankDot_v s))
      · rcases (clock_quiet hquiet).2 with h | h
        · exact congrArg Ppu.v h
        · exact (congrArg Ppu.v h).trans (advance_v _)

end
end

section
/-! SUPPORT. The event of a dot (rules R300, R309, R375), and the flags, the cache and the pixels after it. -/

namespace Sys2Proof.Machine

/-- The hook's event depends on the dot, the mask and the cartridge. -/
theorem scanlineHook_event {s t : State} (h : ActionFrame s t) (hc : t.cart = s.cart) :
    (scanlineHook t).1 = (scanlineHook s).1 := by
  have hp : t.ppu.cycle = s.ppu.cycle ∧ rendering t.ppu = rendering s.ppu := by rw [h]; exact ⟨rfl, rfl⟩
  unfold scanlineHook
  rw [hp.1, hp.2, hc]
  split <;> rfl

theorem renderDot_event (s : State) : (renderDot s).1 = (scanlineHook s).1 := by
  unfold renderDot
  extract_lets s₁ s₂ s₃
  have draw : ActionFrame s s₁ ∧ s₁.cart = s.cart := by
    unfold s₁
    split <;> exact ⟨rfl, rfl⟩
  have move : QuietFrame s₁ s₃ :=
    (QuietFrame.ite _ (whenRendering_quiet _ s₁)).trans (QuietFrame.ite _ (whenRendering_quiet _ s₂))
  exact scanlineHook_event (draw.1.trans move.frame) (move.cart.trans draw.2)

theorem preRenderDot_event (s : State) : (preRenderDot s).1 = (scanlineHook s).1 := by
  unfold preRenderDot
  extract_lets p s₁ s₂
  have move : QuietFrame s s₂ :=
    (QuietFrame.ite _ (clearFlags_quiet s)).trans (QuietFrame.ite _ (whenRendering_quiet _ s₁))
  exact scanlineHook_event move.frame move.cart

/-- One call of the counter asks for an IRQ where it leaves zero and the IRQ is enabled. -/
theorem scanlineIrq_iff (c : Cart) :
    (scanlineIrq c).1 = true ↔ ∃ r, c.mapper = .m004 r ∧ r.irqEnable = true ∧
      (if r.irqCounter = 0 ∨ r.irqReload = true then r.irqLatch else r.irqCounter - 1) = 0 := by
  unfold scanlineIrq
  split
  · next r h =>
    rw [countScanline_eq, Bool.and_eq_true, beq_iff_eq, h]
    exact ⟨fun ⟨h0, he⟩ => ⟨r, rfl, he, h0⟩, fun ⟨_, hr, he, h0⟩ => by cases hr; exact ⟨h0, he⟩⟩
  · next h => exact ⟨nofun, fun ⟨r, hr, _⟩ => absurd hr (h r)⟩

/-- The hook asks for an IRQ at dot 260 while rendering, where the counter does, and never for an NMI. -/
theorem scanlineHook_events (s : State) :
    (scanlineHook s).1 ≠ .generateNMI ∧
    ((scanlineHook s).1 = .generateIRQ ↔
      s.ppu.cycle = 260 ∧ rendering s.ppu = true ∧ (scanlineIrq s.cart).1 = true) := by
  unfold scanlineHook
  by_cases h : s.ppu.cycle = 260 ∧ rendering s.ppu = true
  · cases hirq : (scanlineIrq s.cart).1 <;> simp [h, hirq]
  · rw [if_neg (by simpa using h)]
    exact ⟨nofun, nofun, fun ⟨h1, h2, _⟩ => absurd ⟨h1, h2⟩ h⟩

theorem vblankDot_event (s : State) :
    (vblankDot s).1 = if s.ppu.scanline = 242 ∧ s.ppu.cycle = 0 ∧ s.ppu.ctrl.getLsbD 7 = true then .generateNMI
      else .generateNoInterrupt := by
  unfold vblankDot
  by_cases h : s.ppu.scanline = 242 ∧ s.ppu.cycle = 0
  · cases s.ppu.ctrl.getLsbD 7 <;> simp [h]
  · have h' : ¬ (s.ppu.scanline = 242 ∧ s.ppu.cycle = 0 ∧ s.ppu.ctrl.getLsbD 7 = true) :=
      fun ⟨h1, h2, _⟩ => h ⟨h1, h2⟩
    rw [if_neg (by simpa using h), if_neg h']

/-- Which dots request an NMI. -/
theorem clock_nmi_iff (s : State) :
    (clock s).1 = .generateNMI ↔ s.halted = none ∧ s.ppu.renderState = .verticalBlanking ∧
      s.ppu.scanline = 242 ∧ s.ppu.cycle = 0 ∧ s.ppu.ctrl.getLsbD 7 = true := by
  rcases dot_kinds s with ⟨hrun, hr⟩ | ⟨hrun, hr⟩ | ⟨hrun, hr⟩ | hquiet
  · rw [(clock_render hrun hr).1, renderDot_event, hr]
    exact ⟨fun h => absurd h (scanlineHook_events s).1, fun h => nomatch h.2.1⟩
  · rw [(clock_preRender hrun hr).1, preRenderDot_event, hr]
    exact ⟨fun h => absurd h (scanlineHook_events s).1, fun h => nomatch h.2.1⟩
  · rw [(clock_vblank hrun hr).1, vblankDot_event]
    simp [hrun, hr]
  · rw [(clock_quiet hquiet).1]
    refine ⟨nofun, fun ⟨hrun, hr, _⟩ => ?_⟩
    simp [hrun, hr] at hquiet

/-- Which dots request an IRQ. -/
theorem clock_irq_iff (s : State) :
    (clock s).1 = .generateIRQ ↔ s.halted = none ∧
      (s.ppu.renderState = .render ∨ s.ppu.renderState = .preRender) ∧ s.ppu.cycle = 260 ∧
      rendering s.ppu = true ∧ (scanlineIrq s.cart).1 = true := by
  rcases dot_kinds s with ⟨hrun, hr⟩ | ⟨hrun, hr⟩ | ⟨hrun, hr⟩ | hquiet
  · rw [(clock_render hrun hr).1, renderDot_event, (scanlineHook_events s).2]
    simp [hrun, hr]
  · rw [(clock_preRender hrun hr).1, preRenderDot_event, (scanlineHook_events s).2]
    simp [hrun, hr]
  · rw [(clock_vblank hrun hr).1, vblankDot_event, hr]
    refine ⟨fun h => ?_, fun ⟨_, h, _⟩ => nomatch h⟩
    split at h <;> cases h
  · rw [(clock_quiet hquiet).1]
    refine ⟨nofun, fun ⟨hrun, hr, _⟩ => ?_⟩
    rcases hr with hr | hr <;> simp [hrun, hr] at hquiet

theorem drawDot_rest (s : State) : (drawDot s).ppu = { (drawPixel s).ppu with v := (drawDot s).ppu.v } := by
  unfold drawDot
  split
  · rw [whenRendering_ppu]
  · rfl

/-- But for `v`, a dot of a Render line draws its pixel or evaluates the sprites. -/
theorem renderDot_rest (s : State) :
    (renderDot s).2.ppu = { (if 1 ≤ s.ppu.cycle ∧ s.ppu.cycle ≤ 256 then (drawPixel s).ppu
      else if s.ppu.cycle = 340 then evaluateSprites s.ppu.scanline s.ppu else s.ppu) with
      v := (renderDot s).2.ppu.v } := by
  rw [renderDot_ppu]
  split
  · exact drawDot_rest s
  · by_cases h257 : s.ppu.cycle = 257
    · rw [if_pos h257, if_neg (by omega), whenRendering_ppu]
    · rw [if_neg h257]

/-- But for `v`, a dot of the PreRender line clears the flags or the cache. -/
theorem preRenderDot_rest (s : State) :
    (preRenderDot s).2.ppu = { (if s.ppu.cycle = 1 then
        { s.ppu with vblank := false, sprite0Hit := false, spriteOverflow := false }
      else if s.ppu.cycle = 339 then { s.ppu with secCount := 0 } else s.ppu) with
      v := (preRenderDot s).2.ppu.v } := by
  rw [preRenderDot_ppu]
  split
  · rfl
  · by_cases h257 : s.ppu.cycle = 257
    · rw [if_pos h257, if_neg (by omega), whenRendering_ppu]
    · rw [if_neg h257]
      by_cases hcopy : 280 ≤ s.ppu.cycle ∧ s.ppu.cycle ≤ 304
      · rw [if_pos hcopy, if_neg (by omega), whenRendering_ppu]
      · rw [if_neg hcopy]

section
variable (s : State)

theorem renderDot_vblank : (renderDot s).2.ppu.vblank = s.ppu.vblank := by
  rw [renderDot_rest]
  dsimp only
  repeat' split
  all_goals rfl

theorem renderDot_sprite0Hit :
    (renderDot s).2.ppu.sprite0Hit =
      if 1 ≤ s.ppu.cycle ∧ s.ppu.cycle ≤ 256 then (drawPixel s).ppu.sprite0Hit else s.ppu.sprite0Hit := by
  rw [renderDot_rest]
  dsimp only
  repeat' split
  all_goals rfl

/-- The cache and the overflow flag after a dot of a Render line. -/
theorem renderDot_cache :
    (renderDot s).2.ppu.secCount =
      (if s.ppu.cycle = 340 then evaluateSprites s.ppu.scanline s.ppu else s.ppu).secCount ∧
    (renderDot s).2.ppu.secIndex =
      (if s.ppu.cycle = 340 then evaluateSprites s.ppu.scanline s.ppu else s.ppu).secIndex ∧
    (renderDot s).2.ppu.spriteOverflow =
      (if s.ppu.cycle = 340 then evaluateSprites s.ppu.scanline s.ppu else s.ppu).spriteOverflow := by
  rw [renderDot_rest]
  dsimp only
  split
  · rw [if_neg (by omega)]
    exact ⟨rfl, rfl, rfl⟩
  · exact ⟨rfl, rfl, rfl⟩

/-- The flags after a dot of the PreRender line. -/
theorem preRenderDot_flags :
    (preRenderDot s).2.ppu.vblank = (if s.ppu.cycle = 1 then false else s.ppu.vblank) ∧
    (preRenderDot s).2.ppu.sprite0Hit = (if s.ppu.cycle = 1 then false else s.ppu.sprite0Hit) ∧
    (preRenderDot s).2.ppu.spriteOverflow = (if s.ppu.cycle = 1 then false else s.ppu.spriteOverflow) := by
  rw [preRenderDot_rest]
  dsimp only
  repeat' split
  all_goals exact ⟨rfl, rfl, rfl⟩

/-- The cache after a dot of the PreRender line. -/
theorem preRenderDot_cache :
    (preRenderDot s).2.ppu.secCount = (if s.ppu.cycle = 339 then 0 else s.ppu.secCount) ∧
    (preRenderDot s).2.ppu.secIndex = s.ppu.secIndex := by
  rw [preRenderDot_rest]
  dsimp only
  split
  · rw [if_neg (by omega)]
    exact ⟨rfl, rfl⟩
  · split <;> exact ⟨rfl, rfl⟩

theorem vblankDot_rest :
    (vblankDot s).2.ppu = { s.ppu with
      vblank := if s.ppu.scanline = 242 ∧ s.ppu.cycle = 0 then true else s.ppu.vblank } := by
  rw [vblankDot_ppu]
  split <;> rfl

/-- Forwarding latches the request (rules R242, R243). -/
theorem forward_eq (e : PpuEvent) : forward e s =
    { s with cpu := { s.cpu with
      nmiPending := s.cpu.nmiPending || decide (e = .generateNMI)
      irqPending := s.cpu.irqPending || decide (e = .generateIRQ) } } := by
  cases e <;> simp [forward, requestNmi, requestIrq]

end

end Sys2Proof.Machine
end

section
/-! The interrupt requests and the status flags, O48. -/

section

open Sys2Proof Sys2Proof.Machine

/-- Settles O48: the requests are `clock_nmi_iff` and `clock_irq_iff`, the flags those of the dot's kind, and the dot
of the system step forwards its event by `forward_eq`. -/
theorem whenADotRequestsAnInterrupt : Obligations.WhenADotRequestsAnInterrupt := by
  unfold Obligations.WhenADotRequestsAnInterrupt
  refine ⟨fun s => ⟨clock_nmi_iff s, ?irq, ?flags⟩, fun s => ⟨rfl, forward_eq _ _⟩⟩
  case irq => rw [clock_irq_iff, rendering_iff, scanlineIrq_iff]
  case flags =>
    intro p clears starts
    rcases dot_kinds s with ⟨hrun, hr⟩ | ⟨hrun, hr⟩ | ⟨hrun, hr⟩ | hquiet
    · have hp : p = _ := (clock_render hrun hr).2
      have hstarts : ¬ starts := fun ⟨_, h, _⟩ => by rw [hr] at h; cases h
      have hclears : ¬ clears := fun ⟨_, h, _⟩ => by rw [hr] at h; cases h
      refine ⟨fun h => absurd h hstarts, fun h => absurd h hclears, fun _ _ => ?_, fun _ => ⟨fun h => ?_, fun h => ?_⟩⟩
      · rw [hp, advance_vblank, renderDot_vblank]
      · rw [hp, advance_sprite0Hit, renderDot_sprite0Hit]
        split
        · simp [drawPixel, h]
        · exact h
      · rw [hp, advance_spriteOverflow, (renderDot_cache s).2.2]
        split
        · simp [evaluateSprites, h]
        · exact h
    · have hp : p = _ := (clock_preRender hrun hr).2
      have hstarts : ¬ starts := fun ⟨_, h, _⟩ => by rw [hr] at h; cases h
      obtain ⟨hvblank, hzero, hover⟩ := preRenderDot_flags s
      rw [hp, advance_vblank, advance_sprite0Hit, advance_spriteOverflow, hvblank, hzero, hover]
      have hclears : clears ↔ s.ppu.cycle = 1 := by simp [clears, hrun, hr]
      rw [hclears]
      refine ⟨fun h => absurd h hstarts, fun h => ?_, fun _ h => if_neg h, fun h => ?_⟩
      · simp [h]
      · simp [h]
    · have hp : p = _ := (clock_vblank hrun hr).2
      have hclears : ¬ clears := fun ⟨_, h, _⟩ => by rw [hr] at h; cases h
      have hstarts : starts ↔ s.ppu.scanline = 242 ∧ s.ppu.cycle = 0 := by simp [starts, hrun, hr]
      rw [hp, advance_vblank, advance_sprite0Hit, advance_spriteOverflow, vblankDot_rest, hstarts]
      exact ⟨fun h => if_pos h, fun h => absurd h hclears, fun h _ => if_neg h, fun _ => ⟨id, id⟩⟩
    · have hsame : p.vblank = s.ppu.vblank ∧ p.sprite0Hit = s.ppu.sprite0Hit ∧
          p.spriteOverflow = s.ppu.spriteOverflow := by
        rcases (clock_quiet hquiet).2 with h | h <;> rw [show p = _ from h] <;> simp
      obtain ⟨hvblank, hzero, hover⟩ := hsame
      have hstarts : ¬ starts := fun ⟨h, h', _⟩ => by simp [h, h'] at hquiet
      have hclears : ¬ clears := fun ⟨h, h', _⟩ => by simp [h, h'] at hquiet
      rw [hvblank, hzero, hover]
      exact ⟨fun h => absurd h hstarts, fun h => absurd h hclears, fun _ _ => rfl, fun _ => ⟨id, id⟩⟩

end
end

section
/-! SUPPORT. Sprite evaluation in numbers (rule R308): the candidates as indices, and the cache they fill. -/

namespace Sys2Proof.Machine

/-- The slots before the first one filled stay. -/
theorem cacheFrom_below (is : List (BitVec 6)) {k j : Nat} (v : Vector (BitVec 6) 8) (hj : j < 8) (hk : j < k) :
    (cacheFrom k is v)[j] = v[j] := by
  induction is generalizing k v with
  | nil => rfl
  | cons i is ih =>
    rw [cacheFrom]
    split
    · rw [ih _ (by omega), Vector.getElem_set_ne _ _ (by omega)]
    · rfl

/-- Slot `j` holds the index `j - k` places after the first. -/
theorem cacheFrom_at (is : List (BitVec 6)) {k j : Nat} (v : Vector (BitVec 6) 8) (hj : j < 8) (hk : k ≤ j)
    (hlen : j < k + is.length) : is[j - k]? = some (cacheFrom k is v)[j] := by
  induction is generalizing k v with
  | nil => simp at hlen; omega
  | cons i is ih =>
    rw [cacheFrom, dif_pos (by omega : k < 8)]
    rcases Nat.eq_or_lt_of_le hk with rfl | hlt
    · rw [cacheFrom_below _ _ hj (Nat.lt_succ_self k), Vector.getElem_set_self]
      simp
    · have hprev : j - k = (j - (k + 1)) + 1 := by omega
      rw [hprev, List.getElem?_cons_succ]
      exact ih _ (by omega) (by simp at hlen; omega)

/-- The indices of the OAM entries that show on the scanline after `line`. -/
def candidateNumbers (p : Ppu) (line : Nat) : List Nat :=
  (List.range 64).filter fun i =>
    decide ((readCell p.oam (4 * i)).toNat ≤ line ∧ line < (readCell p.oam (4 * i)).toNat + spriteHeight p)

theorem candidates_eq (p : Ppu) (line : Nat) :
    candidates p line = (candidateNumbers p line).map (BitVec.ofNat 6) := by
  rw [candidates, candidateNumbers, List.filter_map]
  congr 1
  refine List.filter_congr fun i hi => ?_
  have hmod : i % 64 = i := Nat.mod_eq_of_lt (List.mem_range.mp hi)
  simp [selects, oamByte, hmod]

theorem candidateNumbers_lt {p : Ppu} {line i : Nat} (h : i ∈ candidateNumbers p line) : i < 64 :=
  List.mem_range.mp (List.mem_filter.mp h).1

/-- The cache after evaluation. -/
theorem evaluateSprites_cache (line : Nat) (p : Ppu) (k : Fin 8)
    (hk : k.val < (evaluateSprites line p).secCount) :
    (candidateNumbers p line)[k.val]? = some ((evaluateSprites line p).secIndex[k]).toNat := by
  have hcount : (evaluateSprites line p).secCount = min (candidates p line).length 8 := rfl
  have hslot := cacheFrom_at (candidates p line) p.secIndex k.isLt (Nat.zero_le _) (by omega)
  rw [Nat.sub_zero, candidates_eq, List.getElem?_map, Option.map_eq_some_iff] at hslot
  obtain ⟨i, hi, hword⟩ := hslot
  have hlt := candidateNumbers_lt (List.mem_of_getElem? hi)
  rw [hi]
  change some i = some (cacheFrom 0 (candidates p line) p.secIndex)[k.val].toNat
  rw [candidates_eq, ← hword, BitVec.toNat_ofNat, Nat.mod_eq_of_lt hlt]

end Sys2Proof.Machine
end

section
/-! Sprite evaluation, O50. -/

section

open Sys2Proof Sys2Proof.Machine

/-- Settles O50: the cache is `evaluateSprites_cache`, and the dots that change it those of `renderDot_cache` and
`preRenderDot_cache`. -/
theorem spriteEvaluation : Obligations.SpriteEvaluation := by
  unfold Obligations.SpriteEvaluation
  refine ⟨fun line p => ?evaluation, fun s => ?dots⟩
  case evaluation =>
    have hlen : (candidates p line).length = (candidateNumbers p line).length := by
      rw [candidates_eq, List.length_map]
    refine ⟨congrArg (min · 8) hlen, fun k hk => evaluateSprites_cache line p k hk, ?_⟩
    change (p.spriteOverflow || (decide (8 < (candidates p line).length) && rendering p)) = _
    rw [hlen]
    rfl
  case dots =>
    intro q found evaluates empties
    rcases dot_kinds s with ⟨hrun, hr⟩ | ⟨hrun, hr⟩ | ⟨hrun, hr⟩ | hquiet
    · have hq : q = _ := (clock_render hrun hr).2
      obtain ⟨hcount, hindex, hover⟩ := renderDot_cache s
      have hempties : ¬ empties := fun ⟨_, h, _⟩ => by rw [hr] at h; cases h
      have hevaluates : evaluates ↔ s.ppu.cycle = 340 := by simp [evaluates, hrun, hr]
      rw [hq, advance_secCount, advance_secIndex, advance_spriteOverflow, hcount, hindex, hover, hevaluates]
      refine ⟨fun h => ?_, fun h => absurd h hempties, fun h => ?_, fun h _ => ?_⟩
      · rw [if_pos h]
        exact ⟨rfl, rfl, rfl⟩
      · rw [if_neg h]
        exact ⟨rfl, id⟩
      · rw [if_neg h]
    · have hq : q = _ := (clock_preRender hrun hr).2
      obtain ⟨hcount, hindex⟩ := preRenderDot_cache s
      obtain ⟨-, -, hover⟩ := preRenderDot_flags s
      have hevaluates : ¬ evaluates := fun ⟨_, h, _⟩ => by rw [hr] at h; cases h
      have hempties : empties ↔ s.ppu.cycle = 339 := by simp [empties, hrun, hr]
      rw [hq, advance_secCount, advance_secIndex, advance_spriteOverflow, hcount, hindex, hover, hempties]
      refine ⟨fun h => absurd h hevaluates, fun h => if_pos h, fun _ => ⟨rfl, fun h => ?_⟩, fun _ h => if_neg h⟩
      rw [h, ite_self]
    · have hq : q = _ := (clock_vblank hrun hr).2
      have hevaluates : ¬ evaluates := fun ⟨_, h, _⟩ => by rw [hr] at h; cases h
      have hempties : ¬ empties := fun ⟨_, h, _⟩ => by rw [hr] at h; cases h
      rw [hq, advance_secCount, advance_secIndex, advance_spriteOverflow, vblankDot_rest]
      exact ⟨fun h => absurd h hevaluates, fun h => absurd h hempties, fun _ => ⟨rfl, id⟩, fun _ _ => rfl⟩
    · have hsame : q.secCount = s.ppu.secCount ∧ q.secIndex = s.ppu.secIndex ∧
          q.spriteOverflow = s.ppu.spriteOverflow := by
        rcases (clock_quiet hquiet).2 with h | h <;> rw [show q = _ from h] <;> simp
      obtain ⟨hcount, hindex, hover⟩ := hsame
      have hevaluates : ¬ evaluates := fun ⟨h, h', _⟩ => by simp [h, h'] at hquiet
      have hempties : ¬ empties := fun ⟨h, h', _⟩ => by simp [h, h'] at hquiet
      rw [hcount, hindex, hover]
      exact ⟨fun h => absurd h hevaluates, fun h => absurd h hempties, fun _ => ⟨rfl, id⟩, fun _ _ => rfl⟩

end
end

section
/-! SUPPORT. The opcode map as a one-to-one table (rule R114): each row is found by its opcode byte and by its
mnemonic and mode, and the encoder and decoder are inverse on it. -/

namespace Sys2Proof

open Machine (rowFor_spec operandBytesAfter_le wordOf_toNat loByte_toNat hiByte_toNat)

set_option maxRecDepth 4000 in
/-- The rows of the map stand in the order of their opcode bytes. -/
theorem opcodeTable_sorted : opcodeTable.Pairwise fun r r' => r.opcode.toNat < r'.opcode.toNat := by
  have hchain : (opcodeTable.map fun r => r.opcode.toNat).IsChain (· < ·) := by decide
  exact List.pairwise_map.mp hchain.pairwise

theorem rowAt_mem {r : Row} (h : r ∈ opcodeTable) : rowAt r.opcode = some r := by
  obtain ⟨r', hr'⟩ : ∃ r', rowAt r.opcode = some r' :=
    Option.isSome_iff_exists.mp (List.find?_isSome.mpr ⟨r, h, beq_self_eq_true _⟩)
  have hopcode : r'.opcode = r.opcode := by simpa using List.find?_some hr'
  have hnodup : (opcodeTable.map Row.opcode).Nodup :=
    List.pairwise_map.mpr (opcodeTable_sorted.imp fun hlt heq => absurd (congrArg BitVec.toNat heq) (Nat.ne_of_lt hlt))
  rw [hr', List.inj_on_of_nodup_map hnodup (List.mem_of_find?_eq_some hr') h hopcode]

theorem rowAt_spec {opcode : Byte} {r : Row} (h : rowAt opcode = some r) : r ∈ opcodeTable ∧ r.opcode = opcode :=
  ⟨List.mem_of_find?_eq_some h, by simpa using List.find?_some h⟩

set_option maxRecDepth 4000 in
/-- No two rows share a mnemonic and a mode. -/
theorem rowFor_mem : ∀ r ∈ opcodeTable, rowFor r.mnemonic r.mode = some r := by decide

set_option maxRecDepth 4000 in
/-- Every row's mode is one of those the instruction tables list for its mnemonic. -/
theorem mode_allowed : ∀ r ∈ opcodeTable, (allowedModes r.mnemonic).contains r.mode = true := by decide

theorem rowFor_isSome_eq (mn : Mnemonic) (m : Mode) : (rowFor mn m).isSome = (allowedModes mn).contains m := by
  rw [Bool.eq_iff_iff]
  refine ⟨fun h => ?_, Laws.Encoding.rowFor_isSome⟩
  obtain ⟨r, hr⟩ := Option.isSome_iff_exists.mp h
  obtain ⟨hmem, rfl, rfl⟩ := rowFor_spec hr
  exact mode_allowed r hmem

@[simp] theorem assemble_mode (m : Mode) (op1 op2 : Byte) : (assemble m op1 op2).mode = m := by cases m <;> rfl

theorem loByte_wordOf (lo hi : Byte) : loByte (wordOf lo hi) = lo := BitVec.eq_of_toNat_eq (by
  rw [loByte_toNat, wordOf_toNat]
  omega)

theorem hiByte_wordOf (lo hi : Byte) : hiByte (wordOf lo hi) = hi := BitVec.eq_of_toNat_eq (by
  rw [hiByte_toNat, wordOf_toNat]
  omega)

theorem wordOf_bytes (a : Word) : wordOf (loByte a) (hiByte a) = a := BitVec.eq_of_toNat_eq (by
  rw [wordOf_toNat, loByte_toNat, hiByte_toNat]
  omega)

/-- The operand bytes of an assembled operand are those it was assembled from. -/
theorem operandBytes_assemble (m : Mode) (op1 op2 : Byte) :
    operandBytes (assemble m op1 op2) = [op1, op2].take (operandLength m) := by
  cases m <;> simp [assemble, operandBytes, operandLength, loByte_wordOf, hiByte_wordOf]

/-- Every operand is assembled from its bytes, whatever stands for the bytes it does not have. -/
theorem assemble_operandBytes (o : Operand) :
    assemble o.mode ((operandBytes o).getD 0 0) ((operandBytes o).getD 1 0) = o := by
  cases o <;> simp [assemble, Operand.mode, operandBytes, wordOf_bytes]

theorem instrAt_row {op : Byte} {r : Row} (h : rowAt op = some r) (op1 op2 : Byte) :
    instrAt op op1 op2 = instrOf r.mnemonic (assemble r.mode op1 op2) := by simp only [instrAt, h]

theorem operandBytesAfter_row {op : Byte} {r : Row} (h : rowAt op = some r) :
    operandBytesAfter op = operandLength r.mode := by simp only [operandBytesAfter, h]

/-- The opcode byte of a row and the bytes of an operand in its mode decode to the row's instruction. -/
theorem decode_operandBytes {op : Byte} {r : Row} (h : rowAt op = some r) {o : Operand} (hm : o.mode = r.mode)
    (rest : List Byte) : decode (op :: operandBytes o ++ rest) = .ok (instrOf r.mnemonic o, rest) := by
  have hlen : operandBytesAfter op = (operandBytes o).length := by
    rw [operandBytesAfter_row h, Laws.Encoding.operandBytes_length, hm]
  have hle : (operandBytes o).length ≤ 2 := hlen ▸ operandBytesAfter_le op
  rw [← congrArg (instrOf r.mnemonic) (assemble_operandBytes o), hm, ← instrAt_row h]
  generalize operandBytes o = bytes at hlen hle ⊢
  match bytes, hle with
  | [], _ => simp [decode, hlen]
  | [_], _ => simp [decode, hlen]
  | [_, _], _ => simp [decode, hlen]

/-- What decodes at the opcode byte of a row: the row's instruction, of an operand in its mode, whose bytes stand
next. -/
theorem decode_row {op : Byte} {r : Row} (hr : rowAt op = some r) {bytes rest : List Byte} {i : Instr}
    (h : decode (op :: bytes) = .ok (i, rest)) :
    ∃ o : Operand, o.mode = r.mode ∧ i = instrOf r.mnemonic o ∧ bytes = operandBytes o ++ rest := by
  have hbytes := operandBytes_assemble r.mode
  rw [← operandBytesAfter_row hr] at hbytes
  unfold decode at h
  dsimp only at h
  split at h
  · next h0 =>
    cases h
    exact ⟨assemble r.mode 0 0, assemble_mode .., instrAt_row hr .., by rw [hbytes, h0]; rfl⟩
  · next op1 _ h1 =>
    cases h
    exact ⟨assemble r.mode op1 0, assemble_mode .., instrAt_row hr .., by rw [hbytes, h1]; rfl⟩
  · next op1 op2 _ h2 =>
    cases h
    exact ⟨assemble r.mode op1 op2, assemble_mode .., instrAt_row hr .., by rw [hbytes, h2]; rfl⟩
  · cases h

/-- An instruction other than an illegal one is that of its shape. -/
theorem instrOf_shape {i : Instr} {mn : Mnemonic} {o : Operand} (h : i.shape = some (mn, o)) : instrOf mn o = i := by
  cases i <;> cases h <;> rfl

theorem eq_implied {o : Operand} (h : o.mode = .implied) : o = .implied := by cases o <;> cases h; rfl

theorem eq_relative {o : Operand} (h : o.mode = .relative) : o = .relative o.offset := by cases o <;> cases h; rfl

theorem eq_absolute {o : Operand} (h : o.mode = .absolute) : o = .absolute o.target := by cases o <;> cases h; rfl

/-- An operand of a mode the instruction has is kept in the instruction. -/
theorem shape_instrOf {mn : Mnemonic} {o : Operand} (h : (allowedModes mn).contains o.mode = true) :
    (instrOf mn o).shape = some (mn, o) := by
  cases mn
  case lda | ldx | ldy | sta | stx | sty | adc | sbc | cmp | cpx | cpy | inc | dec | and | ora | eor | bit | asl |
      lsr | rol | ror | jmp => rfl
  case bcc | bcs | beq | bne | bmi | bpl | bvc | bvs =>
    rw [eq_relative (List.mem_singleton.mp (List.contains_iff_mem.mp h))]
    rfl
  case jsr =>
    rw [eq_absolute (List.mem_singleton.mp (List.contains_iff_mem.mp h))]
    rfl
  all_goals
    rw [eq_implied (List.mem_singleton.mp (List.contains_iff_mem.mp h))]
    rfl

theorem wellFormed_of_shape {i : Instr} {mn : Mnemonic} {o : Operand} (h : i.shape = some (mn, o)) :
    wellFormed i = (allowedModes mn).contains o.mode := by
  cases i <;> cases h <;> rfl

theorem encode_of_shape {i : Instr} {mn : Mnemonic} {o : Operand} {r : Row} (h : i.shape = some (mn, o))
    (hr : rowFor mn o.mode = some r) : encode i = r.opcode :: operandBytes o := by
  cases i <;> cases h <;> simp only [encode, Instr.shape, hr]

theorem shape_eq_none {i : Instr} (h : i.shape = none) : ∃ b, i = .illegal b := by
  cases i <;> cases h
  exact ⟨_, rfl⟩

end Sys2Proof
end

section
/-! The decoder and the encoder, O1, O2, O4 and O5. -/

section

open Sys2Proof

/-- Settles O1: the row of the instruction's mnemonic and mode is the row of its opcode byte. -/
theorem decodeInvertsEncode : Obligations.DecodeInvertsEncode := by
  unfold Obligations.DecodeInvertsEncode
  intro i rest hwf
  cases hshape : i.shape with
  | none =>
    obtain ⟨b, rfl⟩ := shape_eq_none hshape
    exact (decode_illegal_iff b rest).mpr (List.contains_iff_mem.mp hwf)
  | some shape =>
    obtain ⟨mn, o⟩ := shape
    rw [wellFormed_of_shape hshape] at hwf
    obtain ⟨r, hr⟩ := Option.isSome_iff_exists.mp (Laws.Encoding.rowFor_isSome hwf)
    obtain ⟨hmem, hmn, hmode⟩ := Machine.rowFor_spec hr
    rw [encode_of_shape hshape hr, decode_operandBytes (rowAt_mem hmem) hmode.symm, hmn, instrOf_shape hshape]

/-- Settles O2: what decodes at the opcode byte of a row has the row's mnemonic and mode, which name no other row. -/
theorem encodeInvertsDecode : Obligations.EncodeInvertsDecode := by
  unfold Obligations.EncodeInvertsDecode
  intro bytes rest i h
  cases bytes with
  | nil => cases h
  | cons op bytes =>
    cases hr : rowAt op with
    | none =>
      rw [decode_of_rowAt_none hr] at h
      cases h
      exact ⟨List.contains_iff_mem.mpr ((rowAt_eq_none_iff op).mp hr), rfl⟩
    | some r =>
      obtain ⟨hmem, hop⟩ := rowAt_spec hr
      obtain ⟨o, hmode, rfl, rfl⟩ := decode_row hr h
      have hallowed := mode_allowed r hmem
      rw [← hmode] at hallowed
      have hshape := shape_instrOf hallowed
      refine ⟨(wellFormed_of_shape hshape).trans hallowed, ?_⟩
      rw [encode_of_shape hshape (hmode ▸ rowFor_mem r hmem), hop, List.cons_append]

/-- Settles O4, by computation. -/
theorem wordsOfTheMapDecode : Obligations.WordsOfTheMapDecode := by
  unfold Obligations.WordsOfTheMapDecode
  decide

set_option maxRecDepth 4000 in
/-- Settles O5: the rows are those of the instruction tables by `rowFor_isSome_eq`; the counts and the penalty by
computation on the table. -/
theorem opcodeMapRows : Obligations.OpcodeMapRows := by
  unfold Obligations.OpcodeMapRows
  refine ⟨rfl, rowFor_isSome_eq, ?_, ?_, ?_, ?_, ?_, ?_, ?_, ?_, ?_⟩ <;> decide

end
end

section
/-! SUPPORT. The invariant of the memories, the banks and the PPU position (rules R38 to R43, R297, R347) through a
bus access and a dot: every write goes to a cell its memory has. -/

namespace Sys2Proof.Machine

theorem storeOk_writeCell {w n : Nat} {m : Store w} {k : Nat} (u : BitVec w) (hk : k < n) (h : storeOk n m = true) :
    storeOk n (writeCell m k u) = true := by
  rw [storeOk, Bool.and_eq_true] at h ⊢
  exact ⟨storeWf_writeCell k u h.1, storeWithin_writeCell k u hk h.2⟩

/-- The cartridge's part of `MemoryInv`. -/
structure CartMemory (c : Cart) : Prop where
  ntRam : storeOk ntRamSize c.ntRam
  prgRom : storeOk (prgSize c) c.prgRom
  prgRam : storeOk (prgRamSize c) c.prgRam
  chr : storeOk (chrSize c) c.chr

/-- The banks stay legal, and then so do the memories. -/
def KeepsCart (c d : Cart) : Prop := BankInv c → BankInv d ∧ (CartMemory c → CartMemory d)

theorem KeepsCart.refl (c : Cart) : KeepsCart c c := fun h => ⟨h, id⟩

theorem KeepsCart.trans {a b c : Cart} (h : KeepsCart a b) (k : KeepsCart b c) : KeepsCart a c := fun ha =>
  have ⟨hb, hmem⟩ := h ha
  have ⟨hc, kmem⟩ := k hb
  ⟨hc, kmem ∘ hmem⟩

/-- A bank switch that keeps the banks legal leaves the memories and their sizes. -/
theorem BankFrame.keepsCart {c d : Cart} (h : BankFrame c d) (hb : BankInv c → BankInv d) : KeepsCart c d := fun hc => by
  refine ⟨hb hc, fun hmem => ?_⟩
  rw [h.rest]
  exact ⟨hmem.ntRam, hmem.prgRom, hmem.prgRam, hmem.chr⟩

theorem mapperWrite_keepsCart (a : Word) (v : Byte) (c : Cart) : KeepsCart c (mapperWrite a v c) :=
  (mapperWrite_frame a v c).1.keepsCart (mapperWrite_frame a v c).2

theorem scanlineIrq_keepsCart (c : Cart) : KeepsCart c (scanlineIrq c).2 := by
  obtain ⟨hframe, -, hbanks⟩ := scanlineIrq_frame c
  exact hframe.keepsCart hbanks

theorem cartWriteCpu_keepsCart {c d : Cart} {a : Word} {v : Byte} (h : cartWriteCpu c a v = some d) :
    KeepsCart c d := by
  rcases cartWriteCpu_cases h with rfl | ⟨h6, h8, rfl⟩ | ⟨-, rfl⟩
  · exact KeepsCart.refl _
  · refine fun hc => ⟨hc, fun hmem => ⟨hmem.ntRam, hmem.prgRom, storeOk_writeCell v ?_ hmem.prgRam, hmem.chr⟩⟩
    change a.toNat - 0x6000 < max c.prgRamUnits 1 * 8192
    omega
  · exact mapperWrite_keepsCart a v c

/-- With legal banks a pattern address names a cell of CHR (rule R347). -/
theorem chrOffset_lt {c : Cart} (h : BankInv c) (a : PpuAddr) : chrOffset c a < chrSize c := by
  obtain ⟨-, -, hchr, -, -⟩ := h
  have hbank := (hchr (a.extractLsb' 10 3).toFin).1
  have hlow := (a.extractLsb' 0 10).isLt
  unfold chrOffset
  omega

theorem mirrorOffsets_le (m : Mirroring) (q : Fin 4) : (mirrorOffsets m)[q] ≤ 0x400 := by
  cases m <;> revert q <;> decide

/-- With the offsets of a mirroring mode a nametable address names a cell of nametable RAM (rule R346). -/
theorem ntIndex_lt {c : Cart} (h : BankInv c) (a : PpuAddr) : ntIndex c a < ntRamSize := by
  obtain ⟨-, -, -, hnt, -⟩ := h
  have hquadrant := mirrorOffsets_le c.mirroring (a.extractLsb' 10 2).toFin
  have hlow := (a.extractLsb' 0 10).isLt
  rw [← hnt] at hquadrant
  unfold ntIndex ntRamSize
  omega

theorem palIndex_lt (a : PpuAddr) : palIndex a < paletteSize := by
  rw [palIndex_eq]
  have := Nat.mod_lt a.toNat (show 0 < 32 by decide)
  unfold paletteSize
  split <;> omega

/-- The position of the dot and the memory it draws in. -/
def FrameInv (p : Ppu) : Prop := PositionInv p ∧ storeOk pixelCount p.pixels

/-- What a part of a step keeps of the memories, the banks and the position. -/
structure KeepsStorage (s t : State) : Prop where
  cart : KeepsCart s.cart t.cart
  ram : storeOk ramSize s.bus.ram → storeOk ramSize t.bus.ram
  palette : storeOk paletteSize s.ppu.palette → storeOk paletteSize t.ppu.palette
  oam : storeOk oamSize s.ppu.oam → storeOk oamSize t.ppu.oam
  frame : FrameInv s.ppu → FrameInv t.ppu

theorem KeepsStorage.refl (s : State) : KeepsStorage s s := ⟨KeepsCart.refl _, id, id, id, id⟩

theorem KeepsStorage.trans {a b c : State} (h : KeepsStorage a b) (k : KeepsStorage b c) : KeepsStorage a c where
  cart := h.cart.trans k.cart
  ram := k.ram ∘ h.ram
  palette := k.palette ∘ h.palette
  oam := k.oam ∘ h.oam
  frame := k.frame ∘ h.frame

theorem ReadFrame.keepsStorage {s t : State} (h : ReadFrame s t) : KeepsStorage s t where
  cart := h.cart ▸ KeepsCart.refl _
  ram := h.ram ▸ id
  palette := by rw [h.ppu]; exact id
  oam := by rw [h.ppu]; exact id
  frame := by rw [h.ppu]; exact id

/-- A write of OAMDATA stores in a cell of OAM. -/
theorem writeOam_keepsStorage (v : Byte) (s : State) : KeepsStorage s { s with ppu := writeOam v s.ppu } :=
  ⟨KeepsCart.refl _, id, id, storeOk_writeCell v s.ppu.oamAddr.isLt, id⟩

theorem ppuWrite_keepsStorage (a : PpuAddr) (v : Byte) (s : State) : KeepsStorage s (ppuWrite a v s).state := by
  have cart (d : Cart) (h : KeepsCart s.cart d) : KeepsStorage s { s with cart := d } := ⟨h, id, id, id, id⟩
  unfold ppuWrite
  split
  · split
    · next d hd =>
      unfold cartWritePpu at hd
      split at hd
      · cases hd
        exact cart _ fun hc =>
          ⟨hc, fun hmem => ⟨hmem.ntRam, hmem.prgRom, hmem.prgRam, storeOk_writeCell v (chrOffset_lt hc a) hmem.chr⟩⟩
      · cases hd
    · exact ⟨KeepsCart.refl _, id, id, id, id⟩
  · split
    · exact cart _ fun hc =>
        ⟨hc, fun hmem => ⟨storeOk_writeCell v (ntIndex_lt hc a) hmem.ntRam, hmem.prgRom, hmem.prgRam, hmem.chr⟩⟩
    · exact ⟨KeepsCart.refl _, id, storeOk_writeCell v (palIndex_lt a), id, id⟩

theorem ppuPortWrite_keepsStorage (port : BitVec 3) (v : Byte) (s : State) :
    KeepsStorage s (ppuPortWrite port v s).state := by
  have registers (p : Ppu) (h : p.palette = s.ppu.palette ∧ p.oam = s.ppu.oam)
      (hf : FrameInv s.ppu → FrameInv p) : KeepsStorage s { s with ppu := p } :=
    ⟨KeepsCart.refl _, id, h.1 ▸ id, h.2 ▸ id, hf⟩
  unfold ppuPortWrite
  split
  · exact registers _ ⟨rfl, rfl⟩ id
  split
  · exact registers _ ⟨rfl, rfl⟩ id
  split
  · exact KeepsStorage.refl s
  split
  · exact registers _ ⟨rfl, rfl⟩ id
  split
  · exact writeOam_keepsStorage v s
  split
  · unfold writeScroll
    split <;> exact registers _ ⟨rfl, rfl⟩ id
  split
  · unfold writeAddr
    split <;> exact registers _ ⟨rfl, rfl⟩ id
  · exact Act.bind_keeps KeepsStorage (fun _ _ _ => KeepsStorage.trans) _ _ s (ppuWrite_keepsStorage _ v s) fun _ _ =>
      ⟨KeepsCart.refl _, id, id, id, id⟩

theorem ioWrite_ram_ppu (a : Word) (v : Byte) (s : State) :
    (ioWrite a v s).bus.ram = s.bus.ram ∧ (ioWrite a v s).ppu = s.ppu := by
  unfold ioWrite writeStrobe
  repeat' split
  all_goals exact ⟨rfl, rfl⟩

theorem ioWrite_keepsStorage (a : Word) (v : Byte) (s : State) : KeepsStorage s (ioWrite a v s) := by
  obtain ⟨hram, hppu⟩ := ioWrite_ram_ppu a v s
  exact ⟨(ioWrite_cart a v s).symm ▸ KeepsCart.refl _, hram ▸ id, hppu ▸ id, hppu ▸ id, hppu ▸ id⟩

theorem memWrite_keepsStorage (a : Word) (v : Byte) (s : State) : KeepsStorage s (memWrite a v s).state := by
  refine (ReadFrame.setOpenBus v s).keepsStorage.trans ?_
  unfold memWrite writeValue
  split
  · exact ⟨KeepsCart.refl _, storeOk_writeCell v (ramIndex_lt a), id, id, id⟩
  split
  · exact ppuPortWrite_keepsStorage _ v _
  split
  · exact ioWrite_keepsStorage a v _
  split
  · exact ⟨KeepsCart.refl _, id, id, id, id⟩
  split
  · next h => exact ⟨cartWriteCpu_keepsCart h, id, id, id, id⟩
  · exact ⟨KeepsCart.refl _, id, id, id, id⟩

theorem keepsStorage_instrRel : InstrRel KeepsStorage where
  trans _ _ _ := KeepsStorage.trans
  registers _ _ _ _ _ := ⟨KeepsCart.refl _, id, id, id, id⟩
  raise _ _ := ⟨KeepsCart.refl _, id, id, id, id⟩
  read a s := (memRead_frame a s).keepsStorage
  write := memWrite_keepsStorage

/-- The next scanline of a render state that does not end. -/
theorem scanlinesOf_succ {r : RenderState} {n : Nat} (h : scanlinesOf r n)
    (hends : n ≠ 239 ∧ n ≠ 241 ∧ n ≠ 260 ∧ n ≠ 261) : scanlinesOf r (n + 1) := by
  cases r <;> simp only [scanlinesOf] at h ⊢ <;> omega

/-- A dot moves to a position of the frame (rule R297). -/
theorem advance_position {p : Ppu} (h : PositionInv p) (hrun : p.renderState ≠ .finished) : PositionInv (advance p) := by
  obtain ⟨hline, -, -, hcount⟩ := h
  rw [PositionInv, advance_secCount]
  unfold advance
  split
  · next hcycle => exact ⟨hline, hcycle, fun h => absurd h hrun, hcount⟩
  split
  · exact ⟨⟨Nat.le_refl _, Nat.le_succ _⟩, Nat.zero_le _, fun _ => rfl, hcount⟩
  split
  · exact ⟨⟨Nat.le_refl 242, show 242 ≤ 260 by decide⟩, Nat.zero_le _, fun _ => rfl, hcount⟩
  split
  · exact ⟨rfl, Nat.zero_le _, fun _ => rfl, hcount⟩
  split
  · exact ⟨Nat.zero_le _, Nat.zero_le _, fun _ => rfl, hcount⟩
  · next h239 h241 h260 h261 =>
    exact ⟨scanlinesOf_succ hline ⟨h239, h241, h260, h261⟩, Nat.zero_le _, fun _ => rfl, hcount⟩

/-- A dot leaves at most eight cached sprites (rule R38). -/
theorem dotAction_secCount {s : State} (h : s.ppu.secCount ≤ 8) : (dotAction s).2.ppu.secCount ≤ 8 := by
  unfold dotAction
  split
  · rw [(renderDot_cache s).1]
    split
    · exact Nat.min_le_right _ _
    · exact h
  · exact h
  · rw [vblankDot_rest]
    exact h
  · rw [(preRenderDot_cache s).1]
    split
    · exact Nat.zero_le _
    · exact h
  · exact h

theorem clock_position {s : State} (h : PositionInv s.ppu) : PositionInv (clock s).2.ppu := by
  by_cases hidle : s.halted.isSome = true ∨ s.ppu.renderState = .finished
  · rw [clock_idle hidle]
    exact h
  obtain ⟨hline, hcycle, hfinished, hcount⟩ := h
  rw [not_or, Bool.not_eq_true, Option.isSome_eq_false_iff, Option.isNone_iff_eq_none] at hidle
  have hsec := dotAction_secCount hcount
  have hframe : ActionFrame s (dotAction s).2 := (dotAction_effect s).frame
  rw [clock_runs hidle.1 hidle.2]
  refine advance_position ?_ ?_
  · rw [hframe]
    exact ⟨hline, hcycle, hfinished, hsec⟩
  · rw [hframe]
    exact hidle.2

/-- A dot draws inside the frame. -/
theorem clock_pixelsOk {s : State} (h : FrameInv s.ppu) : storeOk pixelCount (clock s).2.ppu.pixels := by
  obtain ⟨⟨hline, -⟩, hpixels⟩ := h
  rcases clock_pixels s with ⟨⟨-, hstate, hfirst, hlast⟩, heq⟩ | ⟨-, heq⟩ <;> rw [heq]
  · refine storeOk_writeCell _ ?_ hpixels
    rw [hstate, scanlinesOf] at hline
    unfold pixelIndex pixelCount
    omega
  · exact hpixels

theorem clock_keepsCart (s : State) : KeepsCart s.cart (clock s).2.cart := by
  rcases clock_cart s with ⟨-, h⟩ | ⟨-, h⟩ <;> rw [h]
  · exact scanlineIrq_keepsCart s.cart
  · exact KeepsCart.refl _

theorem clock_keepsStorage (s : State) : KeepsStorage s (clock s).2 where
  cart := clock_keepsCart s
  ram := by rw [clock_frame]; exact id
  palette := by rw [clock_frame]; exact id
  oam := by rw [clock_frame]; exact id
  frame h := ⟨clock_position h.1, clock_pixelsOk h⟩

theorem resetFrame_keepsStorage (s : State) : KeepsStorage s (resetFrame s) := by
  unfold resetFrame
  split
  · next hfinished =>
    refine ⟨KeepsCart.refl _, id, id, id, fun ⟨⟨hline, _, hcycle, hcount⟩, hpixels⟩ =>
      ⟨⟨?_, ?_, ?_, hcount⟩, hpixels⟩⟩
    · rw [hfinished] at hline
      exact hline
    · exact (hcycle hfinished).le.trans (Nat.zero_le _)
    · exact fun _ => hcycle hfinished
  · exact KeepsStorage.refl s

theorem keepsStorage_rel : StepRel KeepsStorage :=
  keepsStorage_instrRel.stepRel (fun _ _ => ⟨KeepsCart.refl _, id, id, id, id⟩) resetFrame_keepsStorage
    clock_keepsStorage writeOam_keepsStorage fun _ => ⟨KeepsCart.refl _, id, id, id, id⟩

theorem memoryInv_iff (s : State) :
    MemoryInv s ↔ (storeOk ramSize s.bus.ram ∧ storeOk paletteSize s.ppu.palette ∧ storeOk oamSize s.ppu.oam ∧
      storeOk pixelCount s.ppu.pixels) ∧ CartMemory s.cart :=
  ⟨fun ⟨a, b, c, d, e, f, g, h⟩ => ⟨⟨a, b, c, d⟩, ⟨e, f, g, h⟩⟩,
    fun ⟨⟨a, b, c, d⟩, ⟨e, f, g, h⟩⟩ => ⟨a, b, c, d, e, f, g, h⟩⟩

/-- The memories and the position together, under legal banks. -/
theorem KeepsStorage.memory {s t : State} (h : KeepsStorage s t) (hb : BankInv s.cart) (hm : MemoryInv s)
    (hp : PositionInv s.ppu) : MemoryInv t ∧ PositionInv t.ppu := by
  obtain ⟨⟨hram, hpalette, hoam, hpixels⟩, hcart⟩ := (memoryInv_iff s).mp hm
  obtain ⟨hposition, hdrawn⟩ := h.frame ⟨hp, hpixels⟩
  exact ⟨(memoryInv_iff t).mpr ⟨⟨h.ram hram, h.palette hpalette, h.oam hoam, hdrawn⟩, (h.cart hb).2 hcart⟩,
    hposition⟩

end Sys2Proof.Machine
end

section
/-! SUPPORT. The bound of the cycle counter and the DMA request between steps (rules R91, R412). -/

namespace Sys2Proof.Machine

/-- The cycle counter and the DMA request are as before. -/
def SameCycles (s t : State) : Prop :=
  t.cpu.remainingCycles = s.cpu.remainingCycles ∧ t.bus.dmaRequest = s.bus.dmaRequest

theorem SameCycles.trans {a b c : State} (h : SameCycles a b) (k : SameCycles b c) : SameCycles a c :=
  ⟨k.1.trans h.1, k.2.trans h.2⟩

theorem ReadFrame.sameCycles {s t : State} (h : ReadFrame s t) : SameCycles s t := ⟨by rw [h.cpu], h.dma.1⟩

theorem dot_sameCycles (s : State) : SameCycles s (dot s) := by
  have hforward (e : PpuEvent) (u : State) : SameCycles u (forward e u) := by cases e <;> exact ⟨rfl, rfl⟩
  have hreset : SameCycles s (resetFrame s) := by
    unfold resetFrame
    split <;> exact ⟨rfl, rfl⟩
  have hclock : SameCycles (resetFrame s) (clock (resetFrame s)).2 := by
    rw [clock_frame]
    exact ⟨rfl, rfl⟩
  exact hreset.trans (hclock.trans (hforward _ _))

theorem threeDots_sameCycles (s : State) : SameCycles s (threeDots s) :=
  (dot_sameCycles s).trans ((dot_sameCycles _).trans (dot_sameCycles _))

theorem fetchInstr_sameCycles (s : State) : SameCycles s (fetchInstr s).state := by
  have trans (a b c : State) : SameCycles a b → SameCycles b c → SameCycles a c := SameCycles.trans
  have fetch (u : State) : SameCycles u (fetch u).state :=
    Act.bind_keeps SameCycles trans _ _ u (memRead_frame _ u).sameCycles fun _ _ => ⟨rfl, rfl⟩
  refine Act.bind_keeps SameCycles trans _ _ s (fetch s) fun op u => ?_
  unfold fetchOperands
  split
  · exact ⟨rfl, rfl⟩
  · refine Act.bind_keeps SameCycles trans _ _ u ?_ fun _ _ => ⟨rfl, rfl⟩
    split
    · exact (memRead_frame _ (u.setPc (u.cpu.pc + 1))).sameCycles
    · exact fetch u
  · exact Act.bind_keeps SameCycles trans _ _ u (fetch u) fun _ v =>
      Act.bind_keeps SameCycles trans _ _ v (fetch v) fun _ _ => ⟨rfl, rfl⟩

/-- What a boundary leaves to the tick that ran it: at most nine cycles, and at most seven with a DMA request. -/
def BoundaryCycles (t : State) : Prop :=
  t.cpu.remainingCycles ≤ 9 ∧ (t.bus.dmaRequest = true → t.cpu.remainingCycles ≤ 7)

theorem boundaryCycles_of_le {t : State} (h : t.cpu.remainingCycles ≤ 7) : BoundaryCycles t :=
  ⟨by omega, fun _ => h⟩

/-- A storing instruction adds no cycle to its row and penalty. -/
theorem addedCycles_of_stores {i : Instr} (h : storesMemory i = true) : addedCycles i = 0 := by
  cases i with
  | adc | sbc | bcc | bcs | beq | bne | bmi | bpl | bvc | bvs => cases h
  | _ => rfl

theorem addedCycles_le (i : Instr) : addedCycles i ≤ 2 := by
  cases i <;> simp only [addedCycles] <;> omega

theorem exec_boundaryCycles {i : Instr} {s t : State} (hn : s.cpu.remainingCycles = 0) (hd : s.bus.dmaRequest = false)
    (h : exec i s = .next t) : BoundaryCycles t := by
  obtain ⟨u, hu, rfl | ⟨n, hle, rfl⟩⟩ := exec_ends h
  · exact boundaryCycles_of_le (by rw [hu.cycles, hn]; exact Nat.zero_le 7)
  · have hadded := addedCycles_le i
    refine ⟨show n ≤ 9 by omega, fun hdma => show n ≤ 7 from ?_⟩
    cases hstores : storesMemory i with
    | true =>
      rw [addedCycles_of_stores hstores] at hle
      exact hle
    | false =>
      have hkept : u.bus.dmaRequest = s.bus.dmaRequest := (hu.memory hstores).dma
      rw [hd] at hkept
      exact absurd hdma (Bool.eq_false_iff.mp hkept)

theorem takeInterrupt_boundaryCycles {vector : Word} {s t : State} (hv : 0x8000 ≤ vector.toNat)
    (hv' : vector.toNat < 0xFFFF) (h : takeInterrupt vector s = .next t) : BoundaryCycles t := by
  rw [takeInterrupt, interruptEntry, enterException_eq _ _ _ s hv hv'] at h
  cases h
  exact boundaryCycles_of_le (Nat.le_refl 7)

theorem boundary_boundaryCycles {s t : State} (hn : s.cpu.remainingCycles = 0) (hd : s.bus.dmaRequest = false)
    (h : boundary s = .next t) : BoundaryCycles t := by
  unfold boundary at h
  split at h
  · exact takeInterrupt_boundaryCycles (vector := nmiVector) (by decide) (by decide) h
  dsimp only at h
  split at h
  · exact takeInterrupt_boundaryCycles (vector := irqVector) (by decide) (by decide) h
  · obtain ⟨hcycles, hdma⟩ := fetchInstr_sameCycles { s with cpu := { s.cpu with irqPending := false } }
    unfold runInstr at h
    split at h
    · next i u hi =>
      rw [hi] at hcycles hdma
      exact exec_boundaryCycles (hcycles.trans hn) (hdma.trans hd) h
    · next u hu =>
      rw [hu] at hcycles
      cases h
      exact boundaryCycles_of_le ((hcycles.trans hn).le.trans (Nat.zero_le 7))

theorem dmaCopy_cycles (n i : Nat) (s : State) : (dmaCopy n i s).state.cpu.remainingCycles = s.cpu.remainingCycles := by
  induction n generalizing i s with
  | zero => rfl
  | succ n ih =>
    refine Act.bind_keeps (fun a b => b.cpu.remainingCycles = a.cpu.remainingCycles) (fun _ _ _ h k => k.trans h) _ _ s
      (memRead_frame _ s).sameCycles.1 fun b t => ih (i + 1) _

/-- A DMA that halts leaves the halt. -/
theorem dmaCopy_halt {n i : Nat} {s t : State} (h : dmaCopy n i s = .halt t) : t.halted.isSome = true := by
  induction n generalizing i s with
  | zero => cases h
  | succ n ih =>
    rcases (Act.bind_eq_halt _ _ _).mp h with hread | ⟨b, u, -, hrest⟩
    · obtain ⟨r, -, rfl⟩ := memRead_halt_eq hread
      rfl
    · exact ih hrest

/-- The end of a step whose tick left at most 6 cycles with a DMA request. -/
theorem serveDma_cycleInv {s : State} (hn : s.cpu.remainingCycles ≤ 520)
    (hd : s.bus.dmaRequest = true → s.halted = none → s.cpu.remainingCycles ≤ 6) : CycleInv (serveDma s) := by
  cases hdma : s.bus.dmaRequest with
  | false =>
    rw [serveDma, if_neg (by rw [hdma]; decide)]
    exact ⟨hn, fun h => by rw [hdma] at h; cases h⟩
  | true =>
    cases hh : s.halted with
    | some r =>
      rw [serveDma_of_halted (by rw [hh]; rfl)]
      exact ⟨hn, fun _ => by rw [hh]; rfl⟩
    | none =>
      have hcycles := dmaCopy_cycles 256 0 s
      rw [serveDma, if_pos hdma, oamDma, if_neg (by rw [hh]; decide)]
      split
      · next t h =>
        rw [h] at hcycles
        exact ⟨hcycles.le.trans hn, fun _ => dmaCopy_halt h⟩
      · next t h =>
        rw [h] at hcycles
        refine ⟨?_, fun h => nomatch h⟩
        have hsix := hd hdma hh
        change t.cpu.remainingCycles = _ at hcycles
        change t.cpu.remainingCycles + (513 + t.cpu.tickCounter % 2) ≤ 520
        omega

/-- Every system step keeps the bound and the request. -/
theorem step_cycleInv {s t : State} (hs : CycleInv s) (h : step s = .next t) : CycleInv t := by
  rcases step_cases h with ⟨-, rfl⟩ | ⟨hrun, u, hu, rfl⟩
  · exact hs
  obtain ⟨hn, hd⟩ := threeDots_sameCycles s
  have hno : (threeDots s).bus.dmaRequest = false := by
    rw [hd, Bool.eq_false_iff]
    intro hreq
    have := hs.2 hreq
    rw [hrun] at this
    cases this
  rcases tick_cases hu with ⟨hhalt, -⟩ | ⟨-, hzero, v, hv, rfl⟩ | ⟨hnone, -, rfl⟩
  · simp [threeDots, hrun] at hhalt
  · obtain ⟨hnine, hseven⟩ := boundary_boundaryCycles hzero hno hv
    cases hh : v.halted with
    | some r =>
      rw [countTick_halted (by rw [hh]; rfl)]
      exact serveDma_cycleInv (by omega) fun _ hnone => by rw [hh] at hnone; cases hnone
    | none =>
      rw [countTick_running hh]
      exact serveDma_cycleInv (show v.cpu.remainingCycles - 1 ≤ 520 by omega) fun hreq _ =>
        Nat.sub_le_sub_right (hseven hreq) 1
  · rw [countTick_running hnone]
    refine serveDma_cycleInv (show (threeDots s).cpu.remainingCycles - 1 ≤ 520 from ?_) fun hreq _ => ?_
    · have := hs.1
      omega
    · exact absurd hreq (Bool.eq_false_iff.mp hno)

end Sys2Proof.Machine
end

section
/-! The invariant of a run, O56. -/

section

open Sys2Proof Sys2Proof.Machine

/-- Settles O56: `keepsStatus_rel` for the status, `keepsStorage_rel` for the memories, the banks and the position,
`step_cycleInv` for the cycle counter. -/
theorem machineInvariantKept : Obligations.MachineInvariantKept := by
  unfold Obligations.MachineInvariantKept
  intro s t h
  have hstorage := keepsStorage_rel.step h
  refine ⟨fun hs => ?_, fun hbanks => (hstorage.cart hbanks).1⟩
  obtain ⟨hmemory, hposition⟩ := hstorage.memory hs.banks hs.memory hs.position
  exact ⟨keepsStatus_rel.step h hs.status, hmemory, (hstorage.cart hs.banks).1, hposition, step_cycleInv hs.cycles h⟩

end
end

section
/-! SUPPORT. The results and flags of `AddBinary`, `AddDecimal` and `SubDecimal` in numbers (rules R184 to R186). -/

namespace Sys2Proof.Machine

theorem getLsbD_flagC (b : Bool) (p : Byte) (i : Nat) : (withFlag maskC b p).getLsbD i = if i = 0 then b else p.getLsbD i :=
  getLsbD_withFlag (show maskC = BitVec.twoPow 8 0 by decide) (by decide) b p i

theorem getLsbD_flagZ (b : Bool) (p : Byte) (i : Nat) : (withFlag maskZ b p).getLsbD i = if i = 1 then b else p.getLsbD i :=
  getLsbD_withFlag (show maskZ = BitVec.twoPow 8 1 by decide) (by decide) b p i

theorem getLsbD_flagV (b : Bool) (p : Byte) (i : Nat) : (withFlag maskV b p).getLsbD i = if i = 6 then b else p.getLsbD i :=
  getLsbD_withFlag (show maskV = BitVec.twoPow 8 6 by decide) (by decide) b p i

theorem getLsbD_flagN (b : Bool) (p : Byte) (i : Nat) : (withFlag maskN b p).getLsbD i = if i = 7 then b else p.getLsbD i :=
  getLsbD_withFlag (show maskN = BitVec.twoPow 8 7 by decide) (by decide) b p i

theorem natCast_carry (c : Bool) : (carryNat c : Int) = if c then 1 else 0 := by cases c <;> rfl

theorem carryNat_le (c : Bool) : carryNat c ≤ 1 := by cases c <;> decide

theorem byte_eq_zero_iff (b : Byte) : b = 0 ↔ b.toNat = 0 := BitVec.toNat_inj.symm

theorem complement_toNat (m : Byte) : (m ^^^ 0xFF).toNat = 255 - m.toNat := by
  rw [show (0xFF : Byte) = BitVec.allOnes 8 by decide, BitVec.xor_allOnes, BitVec.toNat_not]

/-- Bit 7 of a byte, as a number. -/
theorem getLsbD_seven (b : Byte) : b.getLsbD 7 = decide (128 ≤ b.toNat) := by
  have := b.isLt
  rw [getLsbD_eq_div]
  exact decide_eq_decide.mpr (by omega)

/-- The sum of `AddBinary` as a number, and the flags it sets. -/
theorem addBinary_flags (a m p : Byte) :
    flagC (addBinary a m p).2 = decide (255 < a.toNat + m.toNat + carryNat (flagC p)) ∧
    flagV (addBinary a m p).2 = (((a ^^^ (addBinary a m p).1) &&& (m ^^^ (addBinary a m p).1)).getLsbD 7) ∧
    flagZ (addBinary a m p).2 = decide ((addBinary a m p).1 = 0) ∧
    flagN (addBinary a m p).2 = (addBinary a m p).1.getLsbD 7 := by
  simp only [addBinary, flagC, flagV, flagZ, flagN, getLsbD_setNZ, getLsbD_flagV, getLsbD_flagC]
  exact ⟨rfl, rfl, rfl, rfl⟩

theorem addBinary_toNat (a m p : Byte) :
    (addBinary a m p).1.toNat = (a.toNat + m.toNat + carryNat (flagC p)) % 256 := BitVec.toNat_ofNat ..

/-- The sign rule in numbers: the operands agree in sign, and the sum does not. -/
theorem signRule_eq (a m r : Byte) :
    ((a ^^^ r) &&& (m ^^^ r)).getLsbD 7 =
      decide ((128 ≤ a.toNat ↔ 128 ≤ m.toNat) ∧ (128 ≤ a.toNat ↔ r.toNat < 128)) := by
  rw [BitVec.getLsbD_and, BitVec.getLsbD_xor, BitVec.getLsbD_xor, getLsbD_seven, getLsbD_seven, getLsbD_seven,
    Bool.eq_iff_iff]
  simp only [Bool.and_eq_true, bne_iff_ne, ne_eq, decide_eq_decide, decide_eq_true_eq]
  omega

theorem byte_toInt (b : Byte) : b.toInt = if b.toNat < 128 then (b.toNat : Int) else b.toNat - 256 := by
  rw [BitVec.toInt_eq_toNat_cond]
  have : (2 * b.toNat < 2 ^ 8) = (b.toNat < 128) := propext (by omega)
  simp only [this]
  rfl

/-- Read as two's complement, the sum is exact modulo 256 and V says that it does not fit (rule R198). -/
theorem addBinary_signed (a m p : Byte) :
    flagV (addBinary a m p).2 =
      decide (a.toInt + m.toInt + (carryNat (flagC p) : Int) < -128 ∨ 127 < a.toInt + m.toInt + (carryNat (flagC p) : Int)) ∧
    (addBinary a m p).1 = BitVec.ofInt 8 (a.toInt + m.toInt + carryNat (flagC p)) := by
  have hc := carryNat_le (flagC p)
  have ha := a.isLt
  have hm := m.isLt
  obtain ⟨-, hV, -, -⟩ := addBinary_flags a m p
  have hr := addBinary_toNat a m p
  refine ⟨?_, BitVec.eq_of_toNat_eq ?_⟩
  · rw [hV, signRule_eq, hr, byte_toInt, byte_toInt]
    refine decide_eq_decide.mpr ?_
    split <;> split <;> omega
  · rw [hr, BitVec.toNat_ofInt, byte_toInt, byte_toInt]
    split <;> split <;> omega

theorem complement_toInt (m : Byte) : (m ^^^ 0xFF).toInt = -1 - m.toInt := by
  have := m.isLt
  rw [byte_toInt, byte_toInt, complement_toNat]
  split <;> split <;> omega

/-- Bit 7 of a number. -/
theorem testBit_seven (t : Nat) : t.testBit 7 = decide (t / 128 % 2 = 1) := Nat.testBit_eq_decide_div_mod_eq

/-- The sign rule of the decimal algorithms in numbers. -/
theorem signRule_testBit {a m : Nat} (t : Nat) (ha : a < 256) (hm : m < 256) :
    ((a ^^^ t) &&& (m ^^^ t)).testBit 7 = decide (a / 128 ≠ t / 128 % 2 ∧ m / 128 ≠ t / 128 % 2) := by
  have bit (n : Nat) (hn : n < 256) : (n ^^^ t).testBit 7 = decide (n / 128 ≠ t / 128 % 2) := by
    rw [Nat.testBit_xor, testBit_seven, testBit_seven, Bool.eq_iff_iff]
    simp only [bne_iff_ne, ne_eq, decide_eq_decide, decide_eq_true_eq]
    omega
  rw [Nat.testBit_and, bit a ha, bit m hm, Bool.decide_and]

theorem ofNat_beq_zero (t : Nat) : ((BitVec.ofNat 8 t : Byte) == 0) = decide (t % 256 = 0) := by
  rw [Bool.eq_iff_iff, beq_iff_eq, byte_eq_zero_iff, BitVec.toNat_ofNat, decide_eq_true_iff]

theorem ofInt_toNat (r : Int) : ((BitVec.ofInt 8 r).toNat : Int) = r % 256 := by
  rw [BitVec.toNat_ofInt]
  omega

theorem ofInt_beq_zero (r : Int) : ((BitVec.ofInt 8 r : Byte) == 0) = decide (r % 256 = 0) := by
  have := ofInt_toNat r
  rw [Bool.eq_iff_iff, beq_iff_eq, byte_eq_zero_iff, decide_eq_true_iff]
  omega

/-- The high digit of a byte, as the tens it stands for. -/
theorem highDigit_eq (b : Byte) : b.toNat - b.toNat % 16 = b.toNat / 16 * 16 := by omega

/-- The decimal sum before the correction of the high digit. -/
def decimalSum (a m p : Byte) : Nat :=
  a.toNat / 16 * 16 + m.toNat / 16 * 16 + addDecimalLow a m (flagC p)

/-- The decimal sum with both corrections. -/
def decimalSumCorrected (a m p : Byte) : Nat :=
  if 0x99 < decimalSum a m p then decimalSum a m p + 0x60 else decimalSum a m p

/-- The result and flags of `AddDecimal`, each from its step. -/
theorem addDecimal_steps (a m p : Byte) :
    (addDecimal a m p).1.toNat = decimalSumCorrected a m p % 256 ∧
    flagC (addDecimal a m p).2 = decide (255 < decimalSumCorrected a m p) ∧
    flagV (addDecimal a m p).2 = decide (a.toNat / 128 ≠ decimalSum a m p / 128 % 2 ∧
      m.toNat / 128 ≠ decimalSum a m p / 128 % 2) ∧
    flagZ (addDecimal a m p).2 = decide (decimalSumCorrected a m p % 256 = 0) ∧
    flagN (addDecimal a m p).2 = decide (decimalSum a m p / 128 % 2 = 1) := by
  have hword : addDecimal a m p = (BitVec.ofNat 8 (decimalSumCorrected a m p),
      withFlag maskZ (BitVec.ofNat 8 (decimalSumCorrected a m p) == 0)
        (withFlag maskC (decide (255 < decimalSumCorrected a m p))
          (withFlag maskV (((a.toNat ^^^ decimalSum a m p) &&& (m.toNat ^^^ decimalSum a m p)).testBit 7)
            (withFlag maskN ((decimalSum a m p).testBit 7) p)))) := by
    unfold decimalSumCorrected decimalSum
    rw [← highDigit_eq a, ← highDigit_eq m]
    rfl
  rw [hword, signRule_testBit _ a.isLt m.isLt, testBit_seven, ofNat_beq_zero]
  simp only [flagC, flagV, flagZ, flagN, getLsbD_flagZ, getLsbD_flagC, getLsbD_flagV, getLsbD_flagN]
  exact ⟨BitVec.toNat_ofNat .., rfl, rfl, rfl, rfl⟩

/-- The sum of `a` and the complement of `m`, from which `SubDecimal` takes C, V and N. -/
def binaryDifference (a m p : Byte) : Nat := a.toNat + (255 - m.toNat) + carryNat (flagC p)

/-- The decimal difference before the correction of the high digit. -/
def decimalDifference (a m p : Byte) : Int :=
  (a.toNat / 16 * 16 : Nat) - (m.toNat / 16 * 16 : Nat) + subDecimalLow a m (flagC p)

/-- The decimal difference with both corrections. -/
def decimalDifferenceCorrected (a m p : Byte) : Int :=
  if decimalDifference a m p < 0 then decimalDifference a m p - 0x60 else decimalDifference a m p

/-- The result and flags of `SubDecimal`, each from its step. -/
theorem subDecimal_steps (a m p : Byte) :
    ((subDecimal a m p).1.toNat : Int) = decimalDifferenceCorrected a m p % 256 ∧
    flagC (subDecimal a m p).2 = decide (255 < binaryDifference a m p) ∧
    flagV (subDecimal a m p).2 = decide (a.toNat / 128 ≠ binaryDifference a m p / 128 % 2 ∧
      (255 - m.toNat) / 128 ≠ binaryDifference a m p / 128 % 2) ∧
    flagZ (subDecimal a m p).2 = decide (decimalDifferenceCorrected a m p % 256 = 0) ∧
    flagN (subDecimal a m p).2 = decide (binaryDifference a m p / 128 % 2 = 1) := by
  have hword : subDecimal a m p = (BitVec.ofInt 8 (decimalDifferenceCorrected a m p),
      withFlag maskZ (BitVec.ofInt 8 (decimalDifferenceCorrected a m p) == 0)
        (withFlag maskN ((binaryDifference a m p).testBit 7)
          (withFlag maskV
            (((a.toNat ^^^ binaryDifference a m p) &&& ((255 - m.toNat) ^^^ binaryDifference a m p)).testBit 7)
            (withFlag maskC (decide (255 < binaryDifference a m p)) p)))) := by
    unfold decimalDifferenceCorrected decimalDifference binaryDifference
    rw [← highDigit_eq a, ← highDigit_eq m, ← complement_toNat]
    rfl
  rw [hword, signRule_testBit _ a.isLt (by omega), testBit_seven, ofInt_beq_zero]
  simp only [flagC, flagV, flagZ, flagN, getLsbD_flagZ, getLsbD_flagC, getLsbD_flagV, getLsbD_flagN]
  exact ⟨ofInt_toNat _, rfl, rfl, rfl, rfl⟩

section
variable {x y c k d : Nat} (hx : x < 10) (hy : y < 10)
include hx hy

/-- The correction of the low digit carries at ten. -/
theorem lowDigit_sum (hc : c ≤ 1) : ∃ k ≤ 1, ∃ d < 10, x + y + c = 10 * k + d ∧
    (if 9 < x + y + c then (x + y + c + 6) % 16 + 16 else x + y + c) = 16 * k + d := by
  split
  · exact ⟨1, by omega, x + y + c - 10, by omega, by omega, by omega⟩
  · exact ⟨0, by omega, x + y + c, by omega, by omega, by omega⟩

/-- The correction of the high digit carries at ten. -/
theorem highDigit_sum (hk : k ≤ 1) (hd : d < 10) : ∃ h ≤ 1, ∃ t < 10, x + y + k = 10 * h + t ∧
    (if 0x99 < x * 16 + y * 16 + (16 * k + d) then x * 16 + y * 16 + (16 * k + d) + 0x60
      else x * 16 + y * 16 + (16 * k + d)) = 256 * h + (16 * t + d) := by
  split
  · exact ⟨1, by omega, x + y + k - 10, by omega, by omega, by omega⟩
  · exact ⟨0, by omega, x + y + k, by omega, by omega, by omega⟩

/-- The correction of the low digit borrows at ten. -/
theorem lowDigit_difference (hc : c ≤ 1) : ∃ k ≤ 1, ∃ d < 10, x + c + 10 * k = y + 1 + d ∧
    (if (x : Int) - y + c - 1 < 0 then ((x : Int) - y + c - 1 - 6) % 16 - 16 else (x : Int) - y + c - 1) =
      (d : Int) - 16 * k := by
  split
  · exact ⟨1, by omega, x + c + 9 - y, by omega, by omega, by omega⟩
  · exact ⟨0, by omega, x + c - (y + 1), by omega, by omega, by omega⟩

/-- The correction of the high digit borrows at ten. -/
theorem highDigit_difference (hk : k ≤ 1) (hd : d < 10) : ∃ h ≤ 1, ∃ t < 10, x + 10 * h = y + k + t ∧
    (if ((x * 16 : Nat) : Int) - (y * 16 : Nat) + (d - 16 * k) < 0 then
        ((x * 16 : Nat) : Int) - (y * 16 : Nat) + (d - 16 * k) - 0x60
      else ((x * 16 : Nat) : Int) - (y * 16 : Nat) + (d - 16 * k)) = ((16 * t + d : Nat) : Int) - 256 * h := by
  split
  · exact ⟨1, by omega, x + 10 - (y + k), by omega, by omega, by omega⟩
  · exact ⟨0, by omega, x - (y + k), by omega, by omega, by omega⟩

end

theorem validBcd_iff (b : Byte) : validBcd b = true ↔ b.toNat / 16 < 10 ∧ b.toNat % 16 < 10 := by
  simp [validBcd]

/-- A byte made of two decimal digits. -/
theorem bcd_of_digits {b : Byte} {t d : Nat} (h : b.toNat = 16 * t + d) (ht : t < 10) (hd : d < 10) :
    validBcd b = true ∧ bcd b = 10 * t + d := by
  have htens : b.toNat / 16 = t := by omega
  have hones : b.toNat % 16 = d := by omega
  rw [validBcd_iff, bcd, htens, hones]
  exact ⟨⟨ht, hd⟩, by omega⟩

section
variable {a m : Byte} (p : Byte) (ha : validBcd a = true) (hm : validBcd m = true)
include ha hm

/-- On decimal digits `AddDecimal` leaves the two decimal digits of the sum, and its carry. -/
theorem addDecimal_bcd : ∃ h ≤ 1, ∃ r < 100, bcd a + bcd m + carryNat (flagC p) = 100 * h + r ∧
    (validBcd (addDecimal a m p).1 = true ∧ bcd (addDecimal a m p).1 = r) ∧
    flagC (addDecimal a m p).2 = decide (h = 1) := by
  obtain ⟨hword, hC, -, -, -⟩ := addDecimal_steps a m p
  rw [validBcd_iff] at ha hm
  obtain ⟨k, hk, d, hd, hones, hlow⟩ := lowDigit_sum ha.2 hm.2 (carryNat_le (flagC p))
  obtain ⟨h, hh, t, ht, htens, hhigh⟩ := highDigit_sum ha.1 hm.1 hk hd
  have hcorrected : decimalSumCorrected a m p = 256 * h + (16 * t + d) := by
    unfold decimalSumCorrected decimalSum addDecimalLow
    exact hlow ▸ hhigh
  rw [hcorrected] at hword hC
  have hbyte : (addDecimal a m p).1.toNat = 16 * t + d := by
    rw [hword, Nat.mul_add_mod]
    exact Nat.mod_eq_of_lt (by omega)
  refine ⟨h, hh, 10 * t + d, by omega, by unfold bcd; omega, bcd_of_digits hbyte ht hd, ?_⟩
  rw [hC]
  exact decide_eq_decide.mpr (by omega)

/-- On decimal digits `SubDecimal` leaves the two decimal digits of the difference, modulo 100. -/
theorem subDecimal_bcd : ∃ h ≤ 1, ∃ r < 100, bcd a + carryNat (flagC p) + 100 * h = bcd m + 1 + r ∧
    (validBcd (subDecimal a m p).1 = true ∧ bcd (subDecimal a m p).1 = r) := by
  obtain ⟨hword, -, -, -, -⟩ := subDecimal_steps a m p
  rw [validBcd_iff] at ha hm
  obtain ⟨k, hk, d, hd, hones, hlow⟩ := lowDigit_difference ha.2 hm.2 (carryNat_le (flagC p))
  obtain ⟨h, hh, t, ht, htens, hhigh⟩ := highDigit_difference ha.1 hm.1 hk hd
  have hcorrected : decimalDifferenceCorrected a m p = ((16 * t + d : Nat) : Int) - 256 * h := by
    unfold decimalDifferenceCorrected decimalDifference subDecimalLow
    exact hlow ▸ hhigh
  rw [hcorrected] at hword
  have hbyte : (subDecimal a m p).1.toNat = 16 * t + d := by omega
  exact ⟨h, hh, 10 * t + d, by omega, by unfold bcd; omega, bcd_of_digits hbyte ht hd⟩

/-- On decimal digits the carry of the binary difference says that there is no decimal borrow. -/
theorem subDecimal_flagC :
    flagC (subDecimal a m p).2 = decide (bcd m + 1 ≤ bcd a + carryNat (flagC p)) := by
  obtain ⟨-, hC, -, -, -⟩ := subDecimal_steps a m p
  have hc := carryNat_le (flagC p)
  have hbyte := m.isLt
  rw [validBcd_iff] at ha hm
  rw [hC, binaryDifference, bcd, bcd]
  exact decide_eq_decide.mpr (by omega)

end

end Sys2Proof.Machine
end

section
/-! Addition and subtraction, O9 to O12. -/

section

open Sys2Proof Sys2Proof.Machine

/-- Settles O9: `addBinary_toNat` and `addBinary_flags`. -/
theorem binaryAddition : Obligations.BinaryAddition := by
  unfold Obligations.BinaryAddition
  intro a m p
  obtain ⟨hC, hV, hZ, hN⟩ := addBinary_flags a m p
  exact ⟨addBinary_toNat a m p, hC, hV, hZ, hN, addBinary_outside a m p⟩

/-- Settles O10: subtraction is addition of the complement, whose signed value is `-1 - m`. -/
theorem overflowIsSignedOverflow : Obligations.OverflowIsSignedOverflow := by
  unfold Obligations.OverflowIsSignedOverflow
  intro a m p
  obtain ⟨haddV, hadd⟩ := addBinary_signed a m p
  obtain ⟨hsubV, hsub⟩ := addBinary_signed a (m ^^^ 0xFF) p
  obtain ⟨hC, -, -, -⟩ := addBinary_flags a (m ^^^ 0xFF) p
  have hexact : a.toInt + (m ^^^ 0xFF).toInt + (carryNat (flagC p) : Int) =
      a.toInt - m.toInt - (if flagC p then 0 else 1) := by
    rw [complement_toInt, natCast_carry]
    split <;> omega
  rw [natCast_carry] at haddV hadd
  rw [hexact] at hsubV hsub
  refine ⟨⟨haddV, hadd⟩, hsubV, hsub, ?_⟩
  have ha := a.isLt
  have hm := m.isLt
  rw [hC, complement_toNat, carryNat]
  refine decide_eq_decide.mpr ?_
  split <;> omega

/-- Settles O11: the steps of the two algorithms, with each flag at the value the step gives it. -/
theorem decimalAlgorithms : Obligations.DecimalAlgorithms := by
  unfold Obligations.DecimalAlgorithms
  refine ⟨fun a m p => ?add, fun a m p => ?sub⟩
  case add =>
    intro al al' t t' q
    obtain ⟨hr, hC, hV, hZ, hN⟩ := addDecimal_steps a m p
    exact ⟨hr, hC, hZ, hN, hV, addDecimal_outside a m p⟩
  case sub =>
    intro t al al' r r' q
    obtain ⟨hr, hC, hV, hZ, hN⟩ := subDecimal_steps a m p
    have hr' : decimalDifferenceCorrected a m p = r' := by
      simp only [decimalDifferenceCorrected, decimalDifference, subDecimalLow, natCast_carry]
      rfl
    rw [hr'] at hr hZ
    exact ⟨hr, hC, hZ, hN, hV, subDecimal_outside a m p⟩

/-- Settles O12: `addDecimal_bcd`, `subDecimal_bcd` and `subDecimal_flagC`. -/
theorem decimalArithmeticIsDecimal : Obligations.DecimalArithmeticIsDecimal := by
  unfold Obligations.DecimalArithmeticIsDecimal
  intro a m p ha hm
  have hcarry : (if flagC p then 1 else 0) = carryNat (flagC p) := rfl
  have hborrow : (if flagC p then 0 else 1) = 1 - carryNat (flagC p) := by cases flagC p <;> rfl
  have hc := carryNat_le (flagC p)
  refine ⟨?add, ?sub⟩
  case add =>
    obtain ⟨h, hh, r, hr, hexact, ⟨hvalid, hbcd⟩, hC⟩ := addDecimal_bcd p ha hm
    refine ⟨hvalid, ?_⟩
    rw [hC, hbcd, hcarry, hexact]
    simp only [decide_eq_true_eq]
    split <;> omega
  case sub =>
    obtain ⟨h, hh, r, hr, hexact, hvalid, hbcd⟩ := subDecimal_bcd p ha hm
    refine ⟨hvalid, ?_, ?_⟩
    · rw [subDecimal_flagC p ha hm, hborrow]
      exact decide_eq_decide.mpr (by omega)
    · rw [subDecimal_flagC p ha hm, hbcd, hborrow]
      simp only [decide_eq_true_eq]
      split <;> omega

end
end

section
/-! SUPPORT. The page-0 pointers, and the branches in numbers (rules R73, R152, R153, R212). -/

namespace Sys2Proof.Machine

theorem zext16_toNat (b : Byte) : (zext16 b).toNat = b.toNat := by
  have := b.isLt
  rw [zext16, BitVec.toNat_setWidth]
  exact Nat.mod_eq_of_lt (by omega)

/-- A read of page 0 is a read of RAM. -/
theorem memRead_zeroPage (b : Byte) (s : State) :
    memRead (zext16 b) s = .ok (readCell s.bus.ram b.toNat) (s.setOpenBus (readCell s.bus.ram b.toNat)) := by
  have := b.isLt
  have hindex : ramIndex (zext16 b) = b.toNat := by
    rw [ramIndex_eq, zext16_toNat]
    exact Nat.mod_eq_of_lt (by omega)
  rw [memRead_ram s (by rw [zext16_toNat]; omega), hindex]

/-- A page-0 pointer is two reads of RAM and leaves the latch at the second. -/
theorem readZeroPagePointer_eq (zp : Byte) (s : State) :
    readZeroPagePointer zp s =
      .ok (wordOf (readCell s.bus.ram zp.toNat) (readCell s.bus.ram ((zp.toNat + 1) % 256)))
        (s.setOpenBus (readCell s.bus.ram ((zp.toNat + 1) % 256))) := by
  have hnext : (zp + 1).toNat = (zp.toNat + 1) % 256 := BitVec.toNat_add ..
  rw [readZeroPagePointer, memRead_zeroPage, Act.bind_ok, memRead_zeroPage, hnext]
  rfl

/-- What a taken branch adds: a page is the high byte of an address. -/
theorem takenExtra_eq (next target : Word) :
    takenExtra next target = if target.toNat / 256 = next.toNat / 256 then 1 else 2 := by
  have hpage : crossed next target = true ↔ ¬ target.toNat / 256 = next.toNat / 256 := by
    rw [crossed, bne_iff_ne, ne_eq, BitVec.toNat_eq, hiByte_toNat, hiByte_toNat, eq_comm]
  unfold takenExtra
  split
  · next h => rw [if_neg (hpage.mp h)]
  · next h => rw [if_pos (not_not.mp (mt hpage.mpr h))]

/-- The common rule of the branches, run from a row of two cycles. -/
theorem operate_branch {mn : Mnemonic} {row : Row} (hrow : rowFor mn .relative = some row) (hbase : row.baseCycles = 2)
    (cond : Byte → Bool) (off : Byte) (s : State) :
    operate mn (.relative off) (branchWhen cond) s =
      let target : Word := BitVec.ofInt 16 (s.cpu.pc.toNat + off.toInt)
      if cond s.cpu.p then .next { s with cpu := { s.cpu with
        pc := target
        remainingCycles := if target.toNat / 256 = s.cpu.pc.toNat / 256 then 3 else 4 } }
      else .next { s with cpu := { s.cpu with remainingCycles := 2 } } := by
  refine (operate_row (o := .relative off) hrow _ s).trans ?_
  rw [hbase, address, Act.bind_ok, branchWhen]
  dsimp only
  split
  · rw [jumpRef, Act.bind_ok, Act.bind_ok, complete_ok, add_sext16]
    have hcycles (target : Word) : 2 + (0 + takenExtra s.cpu.pc target) =
        if target.toNat / 256 = s.cpu.pc.toNat / 256 then 3 else 4 := by
      rw [takenExtra_eq]
      split <;> rfl
    rw [← hcycles]
    rfl
  · rw [Act.bind_ok, complete_ok]
    rfl

end Sys2Proof.Machine
end

section
/-! Pointers and branches, O7 and O20. -/

section

open Sys2Proof Sys2Proof.Machine

/-- Settles O7: `readZeroPagePointer_eq`. -/
theorem pointerAddressingModes : Obligations.PointerAddressingModes := by
  unfold Obligations.PointerAddressingModes
  refine fun penalty z s => ⟨?indirectX, ?indirectY⟩
  case indirectX =>
    have hbase : (z + s.cpu.x).toNat = (z.toNat + s.cpu.x.toNat) % 256 := BitVec.toNat_add ..
    dsimp only
    rw [address, readZeroPagePointer_eq, Act.bind_ok, hbase, wordOf_eq]
  case indirectY =>
    dsimp only
    rw [address, readZeroPagePointer_eq, Act.bind_ok]
    dsimp only [State.setOpenBus]
    have hlow (lo hi : Byte) : (hi.toNat * 256 + lo.toNat) % 256 = lo.toNat := by omega
    rw [pageExtra_add_zext16, add_zext16, wordOf_toNat, hlow]

/-- Settles O20: `operate_branch` at the eight rows. -/
theorem branchesComplete : Obligations.BranchesComplete := by
  unfold Obligations.BranchesComplete
  intro off s target branch
  have run {mn : Mnemonic} {row : Row} (hrow : rowFor mn .relative = some row) (hbase : row.baseCycles = 2)
      (cond : Byte → Bool) : operate mn (.relative off) (branchWhen cond) s = branch (cond s.cpu.p) :=
    operate_branch hrow hbase cond off s
  exact ⟨run (mn := .bcc) rfl rfl fun p => !flagC p, run (mn := .bcs) rfl rfl flagC,
    run (mn := .bne) rfl rfl fun p => !flagZ p, run (mn := .beq) rfl rfl flagZ,
    run (mn := .bpl) rfl rfl fun p => !flagN p, run (mn := .bmi) rfl rfl flagN,
    run (mn := .bvc) rfl rfl fun p => !flagV p, run (mn := .bvs) rfl rfl flagV⟩

end
end

section
/-! SUPPORT. BRK and the interrupt entries (rules R236, R252), and reading back what an instruction pushed. -/

namespace Sys2Proof.Machine

/-- An entry in the shape of the statements: three pushes, `P.I` set, `PC` from the vector. -/
theorem enterException_entry (vector ret : Word) (status : Byte) (s : State) (h : 0x8000 ≤ vector.toNat)
    (h' : vector.toNat < 0xFFFF) :
    enterException vector ret status s = .ok () { s with
      bus := { s.bus with
        ram := writeCell (writeCell (writeCell s.bus.ram (256 + s.cpu.sp.toNat) (hiByte ret))
          (256 + (s.cpu.sp - 1).toNat) (loByte ret)) (256 + (s.cpu.sp - 2).toNat) status
        openBus := peek (vector + 1) s }
      cpu := { s.cpu with sp := s.cpu.sp - 3, p := s.cpu.p ||| 0x04, pc := vectorAt vector s } } := by
  have hsp2 : s.cpu.sp - 1 - 1 = s.cpu.sp - 2 := sub_sub _ 1 1
  have hsp3 : s.cpu.sp - 2 - 1 = s.cpu.sp - 3 := sub_sub _ 2 1
  rw [enterException_eq vector ret status s h h', hsp2, hsp3]
  rfl

theorem exec_brk (s : State) : exec .brk s = complete 7 (noExtra (breakEntry s)) := by
  have hrow : rowFor .brk .implied = some ⟨0x00, .brk, .implied, 7, false⟩ := rfl
  refine (operate_implied hrow (fun _ t => noExtra (breakEntry t)) s).trans ?_
  rw [breakEntry, enterException_eq _ _ _ s (by decide) (by decide)]
  rfl

/-- An interrupt entry as the action of a boundary, with its seven cycles. -/
theorem takeInterrupt_eq (vector : Word) (s : State) (h : 0x8000 ≤ vector.toNat) (h' : vector.toNat < 0xFFFF) :
    takeInterrupt vector s = .next { s with
      bus := { s.bus with
        ram := writeCell (writeCell (writeCell s.bus.ram (256 + s.cpu.sp.toNat) (hiByte s.cpu.pc))
          (256 + (s.cpu.sp - 1).toNat) (loByte s.cpu.pc)) (256 + (s.cpu.sp - 2).toNat)
          (pushedByInterrupt s.cpu.p)
        openBus := peek (vector + 1) s }
      cpu := { s.cpu with
        sp := s.cpu.sp - 3, p := s.cpu.p ||| 0x04, pc := vectorAt vector s, remainingCycles := 7 } } := by
  rw [takeInterrupt, interruptEntry, enterException_entry _ _ _ _ h h']
  rfl

/-- A boundary with no interrupt to take runs the instruction at `PC`, and drops a masked request. -/
theorem boundary_runs {s : State} (hn : s.cpu.nmiPending = false) (hi : (s.cpu.irqPending && !flagI s.cpu.p) = false) :
    boundary s = runInstr { s with cpu := { s.cpu with irqPending := false } } := by
  rw [boundary, if_neg (by rw [hn]; decide)]
  exact if_neg (by rw [hi]; decide)

theorem tick_at_boundary {s t : State} (hs : s.halted = none) (hn : s.cpu.remainingCycles = 0)
    (hb : boundary s = .next t) : tick s = .next (countTick t) := by
  rw [tick, if_neg (by rw [hs]; decide), if_pos hn, hb]

/-- A tick at a boundary whose action leaves an unhalted machine. -/
theorem tick_of_boundary {s t : State} (hs : s.halted = none) (hn : s.cpu.remainingCycles = 0)
    (hb : boundary s = .next t) (ht : t.halted = none) :
    tick s = .next { t with cpu := { t.cpu with
      remainingCycles := t.cpu.remainingCycles - 1, tickCounter := t.cpu.tickCounter + 1 } } := by
  rw [tick_at_boundary hs hn hb, countTick_running ht]

/-- Two stack slots are one cell only where the stack pointers agree. -/
theorem stackSlot_inj {x y : Byte} (h : 256 + x.toNat = 256 + y.toNat) : x = y :=
  BitVec.eq_of_toNat_eq (Nat.add_left_cancel h)

section
variable {m : Memory} (hm : storeWf m = true) (sp a b c : Byte)
include hm

/-- Two pushed bytes read back from their slots. -/
theorem readCell_pushed_two :
    readCell (writeCell (writeCell m (256 + sp.toNat) a) (256 + (sp - 1).toNat) b) (256 + (sp - 1).toNat) = b ∧
    readCell (writeCell (writeCell m (256 + sp.toNat) a) (256 + (sp - 1).toNat) b) (256 + sp.toNat) = a := by
  have hne : ¬ 256 + sp.toNat = 256 + (sp - 1).toNat := fun h => by
    have := stackSlot_inj h
    bv_omega
  have hwf := storeWf_writeCell (256 + sp.toNat) a hm
  exact ⟨readCell_writeCell_same _ b hwf,
    (readCell_writeCell_other _ b hne).trans (readCell_writeCell_same _ a hm)⟩

/-- Three pushed bytes read back from their slots. -/
theorem readCell_pushed_three :
    let pushed := writeCell (writeCell (writeCell m (256 + sp.toNat) a) (256 + (sp - 1).toNat) b) (256 + (sp - 2).toNat) c
    readCell pushed (256 + (sp - 2).toNat) = c ∧ readCell pushed (256 + (sp - 1).toNat) = b ∧
      readCell pushed (256 + sp.toNat) = a := by
  have hne1 : ¬ 256 + (sp - 1).toNat = 256 + (sp - 2).toNat := fun h => by
    have := stackSlot_inj h
    bv_omega
  have hne0 : ¬ 256 + sp.toNat = 256 + (sp - 2).toNat := fun h => by
    have := stackSlot_inj h
    bv_omega
  obtain ⟨hb, ha⟩ := readCell_pushed_two hm sp a b
  exact ⟨readCell_writeCell_same _ c (storeWf_writeCell _ b (storeWf_writeCell _ a hm)),
    (readCell_writeCell_other _ c hne1).trans hb, (readCell_writeCell_other _ c hne0).trans ha⟩

end

/-- Loading a status byte ignores bits 4 and 5. -/
theorem pulledStatus_congr {p q : Byte} (h : p &&& 0xCF = q &&& 0xCF) : pulledStatus p = pulledStatus q := by
  rw [pulledStatus, h, pulledStatus]

/-- Loading the invariant's status gives it back. -/
theorem pulledStatus_of_inv {p : Byte} (h : p &&& 0x30 = 0x20) : pulledStatus p = p := by
  rw [pulledStatus, ← h, ← BitVec.and_or_distrib_left]
  exact BitVec.and_allOnes

theorem pushedByInterrupt_kept (p : Byte) : pushedByInterrupt p &&& 0xCF = p &&& 0xCF := by
  rw [pushedByInterrupt, BitVec.and_or_distrib_right, BitVec.and_assoc]
  exact BitVec.or_zero

theorem pushedByInstruction_kept (p : Byte) : pushedByInstruction p &&& 0xCF = p &&& 0xCF := by
  rw [pushedByInstruction, BitVec.and_or_distrib_right]
  exact BitVec.or_zero

/-- RTI right after an entry that pushed `ret` and a status byte that agrees with `P` outside bits 4 and 5. -/
theorem rti_undoes {s t u : State} {ret : Word} {status : Byte} (hwf : storeWf s.bus.ram = true) (hs : StatusInv s)
    (hkept : status &&& 0xCF = s.cpu.p &&& 0xCF)
    (hram : t.bus.ram = writeCell (writeCell (writeCell s.bus.ram (256 + s.cpu.sp.toNat) (hiByte ret))
      (256 + (s.cpu.sp - 1).toNat) (loByte ret)) (256 + (s.cpu.sp - 2).toNat) status)
    (hsp : t.cpu.sp = s.cpu.sp - 3) (h : exec .rti t = .next u) :
    u.cpu.pc = ret ∧ u.cpu.p = s.cpu.p ∧ u.cpu.sp = s.cpu.sp := by
  obtain ⟨hc, hb, ha⟩ := readCell_pushed_three hwf s.cpu.sp (hiByte ret) (loByte ret) status
  have h1 : t.cpu.sp + 1 = s.cpu.sp - 2 := by rw [hsp]; bv_omega
  have h2 : t.cpu.sp + 1 + 1 = s.cpu.sp - 1 := by rw [hsp]; bv_omega
  have h3 : t.cpu.sp + 1 + 1 + 1 = s.cpu.sp := by rw [hsp]; bv_omega
  rw [exec_rti, returnFromInterrupt_eq, h3, h2, h1, hram, hc, hb, ha] at h
  cases h
  exact ⟨wordOf_bytes ret, (pulledStatus_congr hkept).trans (pulledStatus_of_inv hs), rfl⟩

end Sys2Proof.Machine
end

section
/-! Exceptions and returns, O25, O33 and O34. -/

section

open Sys2Proof Sys2Proof.Machine

/-- Settles O25: `exec_brk` and `enterException_entry`. -/
theorem breakTakesTheException : Obligations.BreakTakesTheException := by
  unfold Obligations.BreakTakesTheException
  intro s ret
  rw [exec_brk, breakEntry, enterException_entry _ _ _ s (by decide) (by decide)]
  rfl

/-- Settles O33: `rti_undoes` after the two kinds of entry; RTS reads back the two bytes JSR pushed. -/
theorem returnsUndoEntries : Obligations.ReturnsUndoEntries := by
  unfold Obligations.ReturnsUndoEntries
  refine fun s t u hwf hs => ⟨fun vector hv hv' ht hu => ?interrupt, fun ht hu => ?brk, fun target ht hu => ?jsr⟩
  case interrupt =>
    rw [interruptEntry, enterException_entry _ _ _ s hv hv'] at ht
    cases ht
    exact rti_undoes hwf hs (pushedByInterrupt_kept _) rfl rfl hu
  case brk =>
    rw [breakTakesTheException s] at ht
    cases ht
    exact rti_undoes hwf hs (pushedByInstruction_kept _) rfl rfl hu
  case jsr =>
    obtain ⟨hlo, hhi⟩ := readCell_pushed_two hwf s.cpu.sp (hiByte (s.cpu.pc - 1)) (loByte (s.cpu.pc - 1))
    have h1 : s.cpu.sp - 2 + 1 = s.cpu.sp - 1 := by bv_omega
    have h2 : s.cpu.sp - 2 + 1 + 1 = s.cpu.sp := by bv_omega
    rw [(subroutineCallAndReturn s).1] at ht
    cases ht
    rw [exec_rts, pull16_eq, Act.bind_ok] at hu
    dsimp only at hu
    rw [h2, h1, hlo, hhi, wordOf_bytes] at hu
    cases hu
    exact ⟨sub_add_cancel _ _, rfl⟩

/-- Settles O34: the two entries are `takeInterrupt_eq`, and a dropped request leaves the boundary of the machine
without it. -/
theorem interruptsAtABoundary : Obligations.InterruptsAtABoundary := by
  unfold Obligations.InterruptsAtABoundary
  intro s hs hn entry
  refine ⟨fun hnmi => ?nmi, fun hnmi hirq hI => ?irq, fun hnmi hirq hI => ?masked⟩
  case nmi =>
    have hb : boundary s = takeInterrupt nmiVector { s with cpu := { s.cpu with nmiPending := false } } := if_pos hnmi
    rw [takeInterrupt_eq _ _ (by decide) (by decide)] at hb
    exact tick_of_boundary hs hn hb hs
  case irq =>
    have hb : boundary s = takeInterrupt irqVector { s with cpu := { s.cpu with irqPending := false } } := by
      rw [boundary, if_neg (by rw [hnmi]; decide)]
      exact if_pos (by rw [hirq, hI]; rfl)
    rw [takeInterrupt_eq _ _ (by decide) (by decide)] at hb
    exact tick_of_boundary hs hn hb hs
  case masked =>
    have hb : boundary s = boundary { s with cpu := { s.cpu with irqPending := false } } := by
      rw [boundary_runs hnmi (by rw [hirq, hI]; rfl)]
      exact (boundary_runs (s := { s with cpu := { s.cpu with irqPending := false } }) hnmi rfl).symm
    obtain ⟨u, hu, -⟩ := boundary_ticks s
    rw [tick_at_boundary hs hn hu]
    exact (tick_at_boundary (s := { s with cpu := { s.cpu with irqPending := false } }) hs hn (hb.symm.trans hu)).symm

end
end

section
/-! SUPPORT. The memories around the pushed slots (rules R62, R178, R222, R236). -/

namespace Sys2Proof.Machine

/-- An instruction that pushed `n` bytes: RAM changes in their slots alone. -/
structure Pushed (n : Nat) (s t : State) : Prop where
  ram : ∀ k, (∀ j < n, k ≠ 256 + (s.cpu.sp - BitVec.ofNat 8 j).toNat) → readCell t.bus.ram k = readCell s.bus.ram k
  ppu : t.ppu = s.ppu
  cart : t.cart = s.cart

theorem exec_pushed {i : Instr} {s t : State} (hi : 0 < pushedBytes i) (h : exec i s = .next t) :
    Pushed (pushedBytes i) s t := by
  have hsp0 : s.cpu.sp - BitVec.ofNat 8 0 = s.cpu.sp := sub_zero _
  cases i with
  | pha =>
    rw [(stackInstructionsComplete s).1] at h
    cases h
    exact ⟨fun k hk => readCell_writeCell_other _ _ (hsp0 ▸ hk 0 (by decide)), rfl, rfl⟩
  | php =>
    rw [(stackInstructionsComplete s).2.1] at h
    cases h
    exact ⟨fun k hk => readCell_writeCell_other _ _ (hsp0 ▸ hk 0 (by decide)), rfl, rfl⟩
  | jsr target =>
    rw [(subroutineCallAndReturn s).1] at h
    cases h
    exact ⟨fun k hk => (readCell_writeCell_other _ _ (hk 1 Nat.one_lt_two)).trans
      (readCell_writeCell_other _ _ (hsp0 ▸ hk 0 Nat.two_pos)), rfl, rfl⟩
  | brk =>
    rw [breakTakesTheException s] at h
    cases h
    exact ⟨fun k hk => (readCell_writeCell_other _ _ (hk 2 (by decide))).trans
      ((readCell_writeCell_other _ _ (hk 1 (by decide))).trans
        (readCell_writeCell_other _ _ (hsp0 ▸ hk 0 (by decide)))), rfl, rfl⟩
  | _ => exact absurd hi (Nat.lt_irrefl 0)

/-- A byte that is no mirror of a stack slot is not in its cell. -/
theorem ramIndex_ne_slot {sp : Byte} {b : Word} (hb : b.toNat < 0x2000) (h : sameByte (stackAddr sp) b = false) :
    ramIndex b ≠ 256 + sp.toNat := by
  intro heq
  have hslot : (stackAddr sp).toNat < 0x2000 := by
    have := sp.isLt
    rw [stackAddr_toNat]
    omega
  rw [← ramIndex_stackAddr] at heq
  rw [sameByte, decide_eq_true hslot, decide_eq_true hb, heq, beq_self_eq_true] at h
  simp at h

theorem Pushed.peek {n : Nat} {s t : State} (h : Pushed n s t) {b : Word}
    (hb : ∀ k < n, sameByte (stackAddr (s.cpu.sp - BitVec.ofNat 8 k)) b = false) : peek b t = peek b s := by
  by_cases hlow : b.toNat < 0x2000
  · rw [Machine.peek, if_pos hlow, Machine.peek, if_pos hlow]
    exact h.ram _ fun j hj => ramIndex_ne_slot hlow (hb j hj)
  · rw [Machine.peek, if_neg hlow, Machine.peek, if_neg hlow, h.cart]

end Sys2Proof.Machine
end

section
/-! The frame of the forms that store nothing or push, O30. -/

section

open Sys2Proof Sys2Proof.Machine

/-- Settles O30: a form that stores nothing leaves every memory (`exec_footprint`), and a pushing one all but its
slots (`exec_pushed`). -/
theorem onlyPushedSlotsChange : Obligations.OnlyPushedSlotsChange := by
  unfold Obligations.OnlyPushedSlotsChange
  intro i s t hi h
  rcases hi with hno | hpush
  · obtain ⟨n, hframe⟩ := exec_footprint h
    obtain ⟨hram, -, hcart, hpalette, hoam⟩ := hframe.memory hno
    exact ⟨fun b _ => peek_congr hram hcart b, ppuRead_congr hpalette hcart, fun k => congrArg (readCell · k) hoam, hcart⟩
  · have hpushed := exec_pushed hpush h
    exact ⟨fun b hb => hpushed.peek hb, ppuRead_congr (congrArg Ppu.palette hpushed.ppu) hpushed.cart,
      fun k => congrArg (fun p : Ppu => readCell p.oam k) hpushed.ppu, hpushed.cart⟩

end
end

section
/-! SUPPORT. `Reset()` in one equation (rules R401, R402). -/

namespace Sys2Proof.Machine

theorem hostReset_halted {s : State} (h : s.halted.isSome = true) : hostReset s = s := if_pos h

/-- `Reset()` of a running machine. -/
theorem hostReset_running {s : State} (h : s.halted = none) :
    hostReset s = { s with
      cpu := { s.cpu with
        a := 0x00, x := 0x00, y := 0x00, sp := s.cpu.sp - 3, p := 0x24, pc := vectorAt 0xFFFC s,
        remainingCycles := 7, nmiPending := false, irqPending := false }
      bus := { s.bus with openBus := peek 0xFFFD s, dmaRequest := false }
      ppu := resetPpu s.ppu } := by
  rw [hostReset, if_neg (by rw [h]; decide)]
  dsimp only
  rw [read16_vector _ (by decide) (by decide)]
  rfl

/-- The invariant at the reset state. -/
theorem reset_machineInv : MachineInv State.reset where
  status := rfl
  memory := ⟨rfl, rfl, rfl, rfl, rfl, rfl, rfl, rfl⟩
  banks := ⟨Nat.one_pos, by decide, by decide, rfl, trivial⟩
  position := ⟨rfl, Nat.zero_le _, fun _ => rfl, Nat.zero_le 8⟩
  cycles := ⟨show 7 ≤ 520 by decide, fun h => nomatch h⟩

end Sys2Proof.Machine
end

section
/-! Reset and halt, O36, O58 and O60. -/

section

open Sys2Proof Sys2Proof.Machine

/-- Settles O36: each of the five asks for the halted bit first. -/
theorem haltedMachineStays : Obligations.HaltedMachineStays := by
  unfold Obligations.HaltedMachineStays
  intro s h
  exact ⟨step_of_halted h, if_pos h, congrArg Prod.snd (clock_idle (.inl h)), oamDma_of_halted h, hostReset_halted h⟩

/-- Settles O60: `hostReset_running`, once and twice. -/
theorem resetSetsItsFields : Obligations.ResetSetsItsFields := by
  unfold Obligations.ResetSetsItsFields
  refine fun s => ⟨hostReset_halted, fun h => ⟨hostReset_running h, ?_⟩⟩
  have hsp : s.cpu.sp - 3 - 3 = s.cpu.sp - 6 := sub_sub _ 3 3
  have hrunning : (hostReset s).halted = none := by rw [hostReset_running h]; exact h
  rw [hostReset_running hrunning, hostReset_running h, ← hsp]
  rfl

/-- Settles O58: the tables hold by evaluation, and the invariant by `reset_machineInv`. -/
theorem resetStateMeetsTheTables : Obligations.ResetStateMeetsTheTables := by
  unfold Obligations.ResetStateMeetsTheTables
  refine ⟨rfl, ⟨rfl, rfl⟩, ?bus, ?ppu, reset_machineInv, fun q => ⟨⟨rfl, rfl⟩, ?_, ?_, rfl, rfl, rfl⟩⟩
  case bus => exact ⟨rfl, rfl, rfl, rfl, rfl⟩
  case ppu => exact ⟨rfl, rfl, rfl, rfl, rfl, rfl, rfl, rfl, rfl, rfl, rfl, rfl, rfl, rfl, rfl, rfl⟩
  · exact ⟨rfl, rfl, rfl, rfl, rfl, rfl⟩
  · exact ⟨rfl, rfl, rfl, rfl, rfl, rfl, rfl, rfl, rfl, rfl, rfl, rfl, rfl, rfl, rfl, rfl⟩

end
end

section
/-! SUPPORT. The controller ports (rule R66) and mapper 004's scanline counter (rule R375). -/

namespace Sys2Proof.Machine

/-- A controller byte has the button in bit 0 and the latch in bits 7 to 5. -/
theorem controllerByte_bits (openBus : Byte) (bit : Bool) :
    (controllerByte openBus bit).getLsbD 0 = bit ∧ controllerByte openBus bit &&& 0xFE = openBus &&& 0xE0 := by
  refine ⟨by cases bit <;> simp [controllerByte], ?_⟩
  rw [controllerByte, BitVec.and_or_distrib_right, BitVec.and_assoc]
  cases bit <;> exact BitVec.or_zero

/-- The shift register after a read with the strobe clear. -/
def shifted (r : Byte) : Byte := (r >>> 1) ||| 0x80

theorem shifted_eq (r : Byte) : shifted r = BitVec.ofNat 8 (128 + r.toNat / 2) := by
  have hr := r.isLt
  have hor := Nat.two_pow_add_eq_or_of_lt (show r.toNat / 2 < 2 ^ 7 by omega) 1
  refine BitVec.eq_of_toNat_eq ?_
  rw [shifted, BitVec.toNat_or, BitVec.toNat_ushiftRight, Nat.shiftRight_eq_div_pow, Nat.or_comm, BitVec.toNat_ofNat,
    Nat.mod_eq_of_lt (by omega)]
  exact hor.symm

theorem getLsbD_shifted (r : Byte) {i : Nat} (hi : i < 8) :
    (shifted r).getLsbD i = if i + 1 < 8 then r.getLsbD (i + 1) else true := by
  unfold shifted
  interval_cases i <;> simp

/-- After `k` shifts the register holds the buttons from bit `k` up, then ones. -/
theorem getLsbD_shifted_iterate (r : Byte) (k : Nat) {i : Nat} (hi : i < 8) :
    (shifted^[k] r).getLsbD i = if i + k < 8 then r.getLsbD (i + k) else true := by
  induction k generalizing i with
  | zero => simp [hi]
  | succ k ih =>
    rw [Function.iterate_succ_apply', getLsbD_shifted _ hi]
    split
    · next h => rw [ih h, show i + 1 + k = i + (k + 1) by omega]
    · rw [if_neg (by omega)]

/-- A port that, with the strobe clear, answers bit 0 of its shift register and shifts it. -/
def ShiftsOut (a : Word) (register : State → Byte) : Prop :=
  ∀ s : State, s.bus.strobe = false → ∃ t,
    memRead a s = .ok (controllerByte s.bus.openBus ((register s).getLsbD 0)) t ∧
      t.bus.strobe = false ∧ register t = shifted (register s)

theorem ShiftsOut.readTimes {a : Word} {register : State → Byte} (h : ShiftsOut a register) (k : Nat) {s : State}
    (hs : s.bus.strobe = false) :
    (readTimes k a s).bus.strobe = false ∧ register (readTimes k a s) = shifted^[k] (register s) := by
  induction k generalizing s with
  | zero => exact ⟨hs, rfl⟩
  | succ k ih =>
    obtain ⟨t, hread, hstrobe, hregister⟩ := h s hs
    rw [Machine.readTimes, hread, Function.iterate_succ_apply, ← hregister]
    exact ih hstrobe

/-- Read number `k` of such a port. -/
theorem ShiftsOut.read {a : Word} {register : State → Byte} (h : ShiftsOut a register) (k : Nat) {s : State}
    (hs : s.bus.strobe = false) :
    ∃ v t, memRead a (Machine.readTimes k a s) = .ok v t ∧
      v.getLsbD 0 = (if k < 8 then (register s).getLsbD k else true) ∧
      v &&& 0xFE = (Machine.readTimes k a s).bus.openBus &&& 0xE0 := by
  obtain ⟨hstrobe, hregister⟩ := h.readTimes k hs
  obtain ⟨t, hread, -, -⟩ := h _ hstrobe
  obtain ⟨hbit, hrest⟩ := controllerByte_bits (Machine.readTimes k a s).bus.openBus
    ((register (Machine.readTimes k a s)).getLsbD 0)
  refine ⟨_, t, hread, hbit.trans ?_, hrest⟩
  rw [hregister, getLsbD_shifted_iterate _ k (by decide), Nat.zero_add]

theorem memRead_controller1 (s : State) :
    memRead 0x4016 s =
      let v := controllerByte s.bus.openBus ((if s.bus.strobe then s.buttons1 else s.bus.shift1).getLsbD 0)
      .ok v { s with bus := { s.bus with
        openBus := v, shift1 := if s.bus.strobe then s.buttons1 else shifted s.bus.shift1 } } := by
  have hshift : (shiftController s.bus.strobe s.buttons1 s.bus.shift1).2 =
      if s.bus.strobe then s.buttons1 else shifted s.bus.shift1 := by cases h : s.bus.strobe <;> rfl
  rw [← hshift]
  rfl

theorem memRead_controller2 (s : State) :
    memRead 0x4017 s =
      let v := controllerByte s.bus.openBus ((if s.bus.strobe then s.buttons2 else s.bus.shift2).getLsbD 0)
      .ok v { s with bus := { s.bus with
        openBus := v, shift2 := if s.bus.strobe then s.buttons2 else shifted s.bus.shift2 } } := by
  have hshift : (shiftController s.bus.strobe s.buttons2 s.bus.shift2).2 =
      if s.bus.strobe then s.buttons2 else shifted s.bus.shift2 := by cases h : s.bus.strobe <;> rfl
  rw [← hshift]
  rfl

theorem shiftsOut_controller1 : ShiftsOut 0x4016 fun s => s.bus.shift1 := by
  intro s hs
  have h := memRead_controller1 s
  simp only [hs, Bool.false_eq_true, if_false] at h
  exact ⟨_, h, rfl, rfl⟩

theorem shiftsOut_controller2 : ShiftsOut 0x4017 fun s => s.bus.shift2 := by
  intro s hs
  have h := memRead_controller2 s
  simp only [hs, Bool.false_eq_true, if_false] at h
  exact ⟨_, h, rfl, rfl⟩

theorem memWrite_strobe (v : Byte) (s : State) :
    memWrite 0x4016 v s =
      let load := s.bus.strobe || v.getLsbD 0
      .ok () { s with bus := { s.bus with
        openBus := v, strobe := v.getLsbD 0
        shift1 := if load then s.buttons1 else s.bus.shift1
        shift2 := if load then s.buttons2 else s.bus.shift2 } } := rfl

/-- Setting and clearing the strobe loads both registers with the buttons. -/
theorem strobe_loads {s t u : State} {on off : Byte} (hon : on.getLsbD 0 = true) (hoff : off.getLsbD 0 = false)
    (h : memWrite 0x4016 on s = .ok () t) (k : memWrite 0x4016 off t = .ok () u) :
    u.bus.strobe = false ∧ u.bus.shift1 = s.buttons1 ∧ u.bus.shift2 = s.buttons2 := by
  rw [memWrite_strobe] at h
  cases h
  rw [memWrite_strobe] at k
  cases k
  refine ⟨hoff, ?_, ?_⟩ <;> simp only [hon, Bool.or_true, Bool.true_or, if_true]

/-- The cartridge of mapper 004 once its counter has been reloaded and decremented `k` times. -/
def countedCart (c : Cart) (r : Mapper004) (k : Nat) : Cart :=
  { c with mapper := .m004 { r with irqCounter := r.irqLatch - BitVec.ofNat 8 k, irqReload := false } }

theorem scanlineIrq_reload {c : Cart} {r : Mapper004} (hc : c.mapper = .m004 r) (hr : r.irqReload = true) :
    scanlineIrq c = (r.irqLatch == 0 && r.irqEnable, countedCart c r 0) := by
  have hzero : r.irqLatch - BitVec.ofNat 8 0 = r.irqLatch := sub_zero _
  rw [scanlineIrq, hc]
  dsimp only
  rw [countScanline, if_pos (.inr hr), countedCart, hzero]

/-- A call before the counter has run down decrements it. -/
theorem scanlineIrq_counted (c : Cart) (r : Mapper004) {k : Nat} (hk : k < r.irqLatch.toNat) :
    scanlineIrq (countedCart c r k) =
      (decide (k + 1 = r.irqLatch.toNat) && r.irqEnable, countedCart c r (k + 1)) := by
  have hlt := r.irqLatch.isLt
  have hcount (n : Nat) (hn : n ≤ r.irqLatch.toNat) :
      r.irqLatch - BitVec.ofNat 8 n = 0 ↔ n = r.irqLatch.toNat := by
    rw [byte_eq_zero_iff, BitVec.toNat_sub, BitVec.toNat_ofNat]
    omega
  have hne : ¬ (r.irqLatch - BitVec.ofNat 8 k = 0 ∨ false = true) := by
    rw [hcount k (by omega)]
    simp
    omega
  have hnext : r.irqLatch - BitVec.ofNat 8 k - 1 = r.irqLatch - BitVec.ofNat 8 (k + 1) := by
    rw [BitVec.ofNat_add]
    exact sub_sub _ _ _
  have hbeq : (r.irqLatch - BitVec.ofNat 8 (k + 1) == 0) = decide (k + 1 = r.irqLatch.toNat) := by
    rw [Bool.eq_iff_iff, beq_iff_eq, decide_eq_true_iff, hcount (k + 1) hk]
  rw [scanlineIrq, countedCart]
  dsimp only
  rw [countScanline, if_neg hne]
  dsimp only
  rw [hnext, hbeq, countedCart]

/-- The cartridge after `k + 1` calls. -/
theorem scanlineIrq_iterate {c : Cart} {r : Mapper004} (hc : c.mapper = .m004 r) (hr : r.irqReload = true) {k : Nat}
    (hk : k < r.irqLatch.toNat) : (fun d => (scanlineIrq d).2)^[k + 1] c = countedCart c r k := by
  induction k with
  | zero => exact congrArg Prod.snd (scanlineIrq_reload hc hr)
  | succ k ih =>
    rw [Function.iterate_succ_apply', ih (by omega)]
    exact congrArg Prod.snd (scanlineIrq_counted c r (by omega))

end Sys2Proof.Machine
end

section
/-! The controllers and the scanline counter, O42 and O54. -/

section

open Sys2Proof Sys2Proof.Machine

/-- Settles O42: each port shifts out the register that the strobe loaded. -/
theorem controllerShiftsOutItsButtons : Obligations.ControllerShiftsOutItsButtons := by
  unfold Obligations.ControllerShiftsOutItsButtons
  refine ⟨fun s s1 s2 on off k hon hoff h1 h2 => ?protocol, fun s => ⟨fun v => memWrite_strobe v s, ?ports⟩⟩
  case protocol =>
    obtain ⟨hstrobe, hfirst, hsecond⟩ := strobe_loads hon hoff h1 h2
    rw [← hfirst, ← hsecond]
    exact ⟨shiftsOut_controller1.read k hstrobe, shiftsOut_controller2.read k hstrobe⟩
  case ports =>
    simp only [← shifted_eq]
    exact ⟨⟨_, memRead_controller1 s, controllerByte_bits _ _⟩, ⟨_, memRead_controller2 s, controllerByte_bits _ _⟩⟩

/-- Settles O54: the first call reloads the counter, call `k` after it leaves the latch less `k`. -/
theorem scanlineCounterCountsTheLatch : Obligations.ScanlineCounterCountsTheLatch := by
  unfold Obligations.ScanlineCounterCountsTheLatch
  intro c r hc hreload henable hlatch k hk
  cases k with
  | zero =>
    have hpos : r.irqLatch.toNat ≠ 0 := fun h => hlatch ((byte_eq_zero_iff _).mpr h)
    rw [Function.iterate_zero_apply, scanlineIrq_reload hc hreload, beq_eq_false_iff_ne.mpr hlatch, Bool.false_and]
    exact (decide_eq_false (Ne.symm hpos)).symm
  | succ k =>
    rw [scanlineIrq_iterate hc hreload hk, scanlineIrq_counted c r hk, henable, Bool.and_true]

end
end

section
/-! SUPPORT. The PPU ports in one equation each (rules R281 to R288), and the fields of the words they write. -/

namespace Sys2Proof.Machine

/-- The words PPUCTRL, PPUSCROLL and PPUADDR leave in `t`. -/
def ctrlWord (v : Byte) (t : Scroll) : Scroll := (t &&& 0x73FF) ||| ((v &&& 3).setWidth 15 <<< 10)
def scrollXWord (v : Byte) (t : Scroll) : Scroll := (t &&& 0x7FE0) ||| (v >>> 3).setWidth 15
def scrollYWord (v : Byte) (t : Scroll) : Scroll :=
  (t &&& 0x0C1F) ||| ((v &&& 7).setWidth 15 <<< 12) ||| ((v >>> 3).setWidth 15 <<< 5)
def addrHighWord (v : Byte) (t : Scroll) : Scroll := (t &&& 0x00FF) ||| ((v &&& 0x3F).setWidth 15 <<< 8)
def addrLowWord (v : Byte) (t : Scroll) : Scroll := (t &&& 0x7F00) ||| v.setWidth 15

theorem ctrlWord_fields (v : Byte) (t : Scroll) :
    (ctrlWord v t).extractLsb' 10 2 = v.extractLsb' 0 2 ∧ (ctrlWord v t).extractLsb' 0 10 = t.extractLsb' 0 10 ∧
      (ctrlWord v t).extractLsb' 12 3 = t.extractLsb' 12 3 := by
  refine ⟨?_, ?_, ?_⟩ <;> unfold ctrlWord <;> ext i hi <;> interval_cases i <;> simp

theorem scrollXWord_fields (v : Byte) (t : Scroll) :
    (scrollXWord v t).extractLsb' 0 5 = v.extractLsb' 3 5 ∧ (scrollXWord v t).extractLsb' 5 10 = t.extractLsb' 5 10 ∧
      (scrollXWord v t).extractLsb' 10 2 = t.extractLsb' 10 2 := by
  refine ⟨?_, ?_, ?_⟩ <;> unfold scrollXWord <;> ext i hi <;> interval_cases i <;> simp

theorem scrollYWord_fields (v : Byte) (t : Scroll) :
    (scrollYWord v t).extractLsb' 5 5 = v.extractLsb' 3 5 ∧ (scrollYWord v t).extractLsb' 12 3 = v.extractLsb' 0 3 ∧
      (scrollYWord v t).extractLsb' 0 5 = t.extractLsb' 0 5 ∧ (scrollYWord v t).extractLsb' 10 2 = t.extractLsb' 10 2 := by
  refine ⟨?_, ?_, ?_, ?_⟩ <;> unfold scrollYWord <;> ext i hi <;> interval_cases i <;> simp

theorem addrHighWord_fields (v : Byte) (t : Scroll) :
    (addrHighWord v t).extractLsb' 8 7 = (v.extractLsb' 0 6).setWidth 7 ∧
      (addrHighWord v t).extractLsb' 0 8 = t.extractLsb' 0 8 := by
  refine ⟨?_, ?_⟩ <;> unfold addrHighWord <;> ext i hi <;> interval_cases i <;> simp

theorem addrLowWord_fields (v : Byte) (t : Scroll) :
    (addrLowWord v t).extractLsb' 8 7 = t.extractLsb' 8 7 ∧ (addrLowWord v t).extractLsb' 0 8 = v := by
  refine ⟨?_, ?_⟩ <;> unfold addrLowWord <;> ext i hi <;> interval_cases i <;> simp

section
variable {a : Word} {k : BitVec 3} (h : 0x2000 ≤ a.toNat) (h' : a.toNat < 0x4000) (hk : a.toNat % 8 = k.toNat)
include h h' hk

/-- A write of port `k`, at every mirror. -/
theorem memWrite_portNumber (v : Byte) (s : State) : memWrite a v s = ppuPortWrite k v (s.setOpenBus v) := by
  rw [memWrite_port v s h h', (portOf_eq_iff a k).mpr hk]

/-- A read of port `k`, at every mirror. -/
theorem memRead_portNumber (s : State) :
    memRead a s = .ok (ppuPortRead k s).1 ((ppuPortRead k s).2.setOpenBus (ppuPortRead k s).1) := by
  rw [memRead_of_readHalt_none (readHalt_eq_none s (by omega) (by omega)), readValue_port s h h',
    (portOf_eq_iff a k).mpr hk]

end

/-- A read of PPUDATA refills the buffer and moves `v`. -/
theorem memRead_data {a : Word} (h : 0x2000 ≤ a.toNat) (h' : a.toNat < 0x4000) (hk : a.toNat % 8 = 7) (s : State) :
    memRead a s = .ok (dataRead s).1 { s with
      bus := { s.bus with openBus := (dataRead s).1 }
      ppu := { s.ppu with readBuffer := (dataRead s).2, v := s.ppu.v + dataStep s.ppu } } :=
  memRead_portNumber (k := 7) h h' hk s

/-- A store on the PPU bus leaves the PPU's registers. -/
theorem ppuWrite_registers (x : PpuAddr) (v : Byte) (s : State) :
    (ppuWrite x v s).state.ppu.v = s.ppu.v ∧ (ppuWrite x v s).state.ppu.ctrl = s.ppu.ctrl := by
  unfold ppuWrite
  split
  · split <;> exact ⟨rfl, rfl⟩
  · split <;> exact ⟨rfl, rfl⟩

/-- A write of PPUDATA stores at `v` and moves it. -/
theorem memWrite_data {a : Word} (h : 0x2000 ≤ a.toNat) (h' : a.toNat < 0x4000) (hk : a.toNat % 8 = 7) (v : Byte)
    (s : State) :
    memWrite a v s = (ppuWrite (busAddr s.ppu.v) v (s.setOpenBus v)).bind fun _ t =>
      .ok () { t with ppu := { t.ppu with v := s.ppu.v + dataStep s.ppu } } := by
  refine (memWrite_portNumber (k := 7) h h' hk v s).trans ?_
  change (ppuWrite (busAddr s.ppu.v) v (s.setOpenBus v)).bind _ = _
  obtain ⟨hv, hctrl⟩ := ppuWrite_registers (busAddr s.ppu.v) v (s.setOpenBus v)
  cases hstore : ppuWrite (busAddr s.ppu.v) v (s.setOpenBus v) with
  | halt t => rfl
  | ok _ t =>
    rw [hstore, Act.state_ok] at hv hctrl
    rw [Act.bind_ok, Act.bind_ok, hv, dataStep, hctrl]
    rfl

/-- A write of a PPU port that changes only the PPU, at every mirror. -/
def PortWrites (a : Word) (v : Byte) (s : State) (p : Ppu) : Prop :=
  memWrite a v s = .ok () { s with bus := { s.bus with openBus := v }, ppu := p }

section
variable {a : Word} (h : 0x2000 ≤ a.toNat) (h' : a.toNat < 0x4000) (v : Byte) {s : State}
include h h'

theorem portWrites_ctrl (hk : a.toNat % 8 = 0) :
    PortWrites a v s { s.ppu with ctrl := v, t := ctrlWord v s.ppu.t } :=
  memWrite_portNumber (k := 0) h h' hk v s

theorem portWrites_mask (hk : a.toNat % 8 = 1) : PortWrites a v s { s.ppu with mask := v } :=
  memWrite_portNumber (k := 1) h h' hk v s

theorem portWrites_status (hk : a.toNat % 8 = 2) : PortWrites a v s s.ppu :=
  memWrite_portNumber (k := 2) h h' hk v s

theorem portWrites_oamAddr (hk : a.toNat % 8 = 3) : PortWrites a v s { s.ppu with oamAddr := v } :=
  memWrite_portNumber (k := 3) h h' hk v s

theorem portWrites_oamData (hk : a.toNat % 8 = 4) : PortWrites a v s (writeOam v s.ppu) :=
  memWrite_portNumber (k := 4) h h' hk v s

theorem portWrites_scroll (hk : a.toNat % 8 = 5) : PortWrites a v s (writeScroll v s.ppu) :=
  memWrite_portNumber (k := 5) h h' hk v s

theorem portWrites_addr (hk : a.toNat % 8 = 6) : PortWrites a v s (writeAddr v s.ppu) :=
  memWrite_portNumber (k := 6) h h' hk v s

theorem portWrites_scroll_first (hk : a.toNat % 8 = 5) (hw : s.ppu.w = false) :
    PortWrites a v s { s.ppu with t := scrollXWord v s.ppu.t, x := v.setWidth 3, w := true } := by
  have hwrite := portWrites_scroll h h' v hk (s := s)
  rwa [writeScroll, if_neg (by rw [hw]; decide)] at hwrite

theorem portWrites_scroll_second (hk : a.toNat % 8 = 5) (hw : s.ppu.w = true) :
    PortWrites a v s { s.ppu with t := scrollYWord v s.ppu.t, w := false } := by
  have hwrite := portWrites_scroll h h' v hk (s := s)
  rwa [writeScroll, if_pos hw] at hwrite

theorem portWrites_addr_first (hk : a.toNat % 8 = 6) (hw : s.ppu.w = false) :
    PortWrites a v s { s.ppu with t := addrHighWord v s.ppu.t, w := true } := by
  have hwrite := portWrites_addr h h' v hk (s := s)
  rwa [writeAddr, if_neg (by rw [hw]; decide)] at hwrite

theorem portWrites_addr_second (hk : a.toNat % 8 = 6) (hw : s.ppu.w = true) :
    PortWrites a v s { s.ppu with t := addrLowWord v s.ppu.t, v := addrLowWord v s.ppu.t, w := false } := by
  have hwrite := portWrites_addr h h' v hk (s := s)
  rwa [writeAddr, if_pos hw] at hwrite

end

/-- The bits of PPUSTATUS (rule R283). -/
theorem statusByte_bits (p : Ppu) (b : Byte) :
    (statusByte p b).getLsbD 7 = p.vblank ∧ (statusByte p b).getLsbD 6 = p.sprite0Hit ∧
      (statusByte p b).getLsbD 5 = p.spriteOverflow ∧ statusByte p b &&& 0x1F = b &&& 0x1F := by
  unfold statusByte
  refine ⟨?_, ?_, ?_, ?_⟩
  · cases p.vblank <;> cases p.sprite0Hit <;> cases p.spriteOverflow <;> simp
  · cases p.vblank <;> cases p.sprite0Hit <;> cases p.spriteOverflow <;> simp
  · cases p.vblank <;> cases p.sprite0Hit <;> cases p.spriteOverflow <;> simp
  · have hflag (c : Bool) (m : Byte) (hm : m &&& 0x1F = 0) : (if c then m else 0) &&& 0x1F = 0 := by
      cases c with
      | false => exact BitVec.zero_and
      | true => exact hm
    rw [BitVec.and_or_distrib_right, BitVec.and_or_distrib_right, BitVec.and_or_distrib_right, hflag _ _ rfl,
      hflag _ _ rfl, hflag _ _ rfl, BitVec.and_assoc]
    exact BitVec.zero_or

/-- An address word in numbers. -/
theorem scroll_toNat (t : Scroll) : t.toNat = (t.extractLsb' 8 7).toNat * 256 + (t.extractLsb' 0 8).toNat := by
  have := t.isLt
  rw [field_toNat, field_toNat]
  omega

theorem addrHighWord_toNat (v : Byte) (t : Scroll) : (addrHighWord v t).toNat = v.toNat % 64 * 256 + t.toNat % 256 := by
  obtain ⟨hhigh, hlow⟩ := addrHighWord_fields v t
  rw [scroll_toNat, hhigh, hlow, BitVec.toNat_setWidth, field_toNat, field_toNat]
  omega

theorem addrLowWord_toNat (v : Byte) (t : Scroll) : (addrLowWord v t).toNat = t.toNat / 256 * 256 + v.toNat := by
  have := t.isLt
  obtain ⟨hhigh, hlow⟩ := addrLowWord_fields v t
  rw [scroll_toNat, hhigh, hlow, field_toNat]
  omega

/-- The coarse and fine parts of a scroll byte. -/
theorem scrollByte_coarse (v : Byte) : (v.extractLsb' 3 5).toNat = v.toNat / 8 := by
  have := v.isLt
  rw [field_toNat]
  omega

theorem scrollByte_fine (v : Byte) : (v.extractLsb' 0 3).toNat = v.toNat % 8 := by
  rw [field_toNat]
  omega

theorem fineX_toNat (v : Byte) : (v.setWidth 3 : BitVec 3).toNat = v.toNat % 8 := BitVec.toNat_setWidth ..

end Sys2Proof.Machine
end

section
/-! The PPU ports, O44 and O46. -/

section

open Sys2Proof Sys2Proof.Machine

/-- Settles O44: one equation for each port, read or written. -/
theorem statusAndDataPorts : Obligations.StatusAndDataPorts := by
  unfold Obligations.StatusAndDataPorts
  intro a s h h' x moved
  refine ⟨fun hk => ?status, fun hk => ?data, ?writes, fun hk => ?oamRead⟩
  case status => exact ⟨_, memRead_portNumber (k := 2) h h' hk s, statusByte_bits s.ppu s.bus.openBus⟩
  case data =>
    refine ⟨fun hx => ?_, fun hx => ?_, fun v => memWrite_data h h' hk v s⟩
    · have hread : dataRead s = (s.ppu.readBuffer, ppuRead s x) := if_pos hx
      rw [memRead_data h h' hk, hread]
      rfl
    · have hread : dataRead s = (ppuRead s x, ppuRead s (x - 0x1000)) := if_neg (Nat.not_lt.mpr hx)
      rw [memRead_data h h' hk, hread]
      rfl
  case writes =>
    intro v writes
    refine ⟨fun hk => ⟨_, portWrites_ctrl h h' v hk, ctrlWord_fields v s.ppu.t⟩, portWrites_mask h h' v,
      portWrites_status h h' v, portWrites_oamAddr h h' v, fun hk => ?_⟩
    exact ⟨_, portWrites_oamData h h' v hk, fun hwf k => readCell_writeCell _ k v hwf⟩
  case oamRead => exact memRead_portNumber (k := 4) h h' hk s

/-- Settles O46: the single writes, and the two pairs as one after the other. -/
theorem twoWritesSetScrollAndAddress : Obligations.TwoWritesSetScrollAndAddress := by
  unfold Obligations.TwoWritesSetScrollAndAddress
  refine ⟨fun s a b first second hw ha ha' hb hb' => ⟨fun ka kb => ?address, fun ka kb => ?scroll⟩, ?single⟩
  case address =>
    refine ⟨_, _, portWrites_addr_first ha ha' first ka hw, portWrites_addr_second hb hb' second kb rfl, ?_, rfl, rfl, rfl⟩
    have := s.ppu.t.isLt
    dsimp only
    rw [addrLowWord_toNat, addrHighWord_toNat]
    omega
  case scroll =>
    obtain ⟨hx, -, hnames⟩ := scrollXWord_fields first s.ppu.t
    obtain ⟨hcoarse, hfine, hkept, hnt⟩ := scrollYWord_fields second (scrollXWord first s.ppu.t)
    refine ⟨_, _, portWrites_scroll_first ha ha' first ka hw, portWrites_scroll_second hb hb' second kb rfl, ?_, ?_, ?_,
      ?_, ?_, rfl, rfl⟩
    · exact (congrArg BitVec.toNat (hkept.trans hx)).trans (scrollByte_coarse first)
    · exact fineX_toNat first
    · exact (congrArg BitVec.toNat hcoarse).trans (scrollByte_coarse second)
    · exact (congrArg BitVec.toNat hfine).trans (scrollByte_fine second)
    · exact hnt.trans hnames
  case single =>
    intro s a v h h' writes old
    refine ⟨fun hk hw => ?_, fun hk hw => ?_, fun hk hw => ?_, fun hk hw => ?_⟩
    · obtain ⟨hx, hrest, -⟩ := scrollXWord_fields v old
      exact ⟨_, _, portWrites_scroll_first h h' v hk hw, fineX_toNat v,
        (congrArg BitVec.toNat hx).trans (scrollByte_coarse v), hrest⟩
    · obtain ⟨hcoarse, hfine, hkept, hnt⟩ := scrollYWord_fields v old
      exact ⟨_, portWrites_scroll_second h h' v hk hw, (congrArg BitVec.toNat hcoarse).trans (scrollByte_coarse v),
        (congrArg BitVec.toNat hfine).trans (scrollByte_fine v), hkept, hnt⟩
    · exact ⟨_, portWrites_addr_first h h' v hk hw, addrHighWord_toNat v old⟩
    · exact ⟨_, portWrites_addr_second h h' v hk hw, addrLowWord_toNat v old⟩

end
end

section
/-! SUPPORT. Which bytes a bus write can change (rules R62, R77 to R83, R285, R288). -/

namespace Sys2Proof.Machine

theorem cartWritePpu_eq {c d : Cart} {x : PpuAddr} {v : Byte} (h : cartWritePpu c x v = some d) :
    d = { c with chr := writeCell c.chr (chrOffset c x) v } := by
  unfold cartWritePpu at h
  split at h <;> cases h
  rfl

/-- A store on the PPU bus changes one cell of CHR, of nametable RAM or of the palette, or nothing but the halt. -/
theorem ppuWrite_cases (x : PpuAddr) (v : Byte) (s : State) :
    (x.toNat < 0x2000 ∧ (ppuWrite x v s).state =
      { s with cart := { s.cart with chr := writeCell s.cart.chr (chrOffset s.cart x) v } }) ∨
    (0x2000 ≤ x.toNat ∧ x.toNat < 0x3F00 ∧ (ppuWrite x v s).state =
      { s with cart := { s.cart with ntRam := writeCell s.cart.ntRam (ntIndex s.cart x) v } }) ∨
    (0x3F00 ≤ x.toNat ∧ (ppuWrite x v s).state =
      { s with ppu := { s.ppu with palette := writeCell s.ppu.palette (palIndex x) v } }) ∨
    ∃ r, (ppuWrite x v s).state = { s with halted := some r } := by
  unfold ppuWrite
  split
  · next hx =>
    split
    · next d hd =>
      rw [cartWritePpu_eq hd]
      exact .inl ⟨hx, rfl⟩
    · exact .inr (.inr (.inr ⟨_, rfl⟩))
  split
  · next hx hx' => exact .inr (.inl ⟨Nat.not_lt.mp hx, hx', rfl⟩)
  · next hx hx' => exact .inr (.inr (.inl ⟨Nat.not_lt.mp hx', rfl⟩))

/-- PPU addresses that are not one byte have cells of their own. -/
theorem ppuWrite_other {x y : PpuAddr} (v : Byte) (s : State) (h : samePpuByte s.cart x y = false) :
    ppuRead (ppuWrite x v s).state y = ppuRead s y := by
  unfold samePpuByte at h
  rcases ppuWrite_cases x v s with ⟨hx, heq⟩ | ⟨hx, hx', heq⟩ | ⟨hx, heq⟩ | ⟨r, heq⟩ <;> rw [heq] <;> unfold ppuRead
  · rw [if_pos hx] at h
    split
    · next hy =>
      refine readCell_writeCell_other _ _ fun hcell => ?_
      change chrOffset s.cart y = chrOffset s.cart x at hcell
      rw [decide_eq_true hy, hcell, beq_self_eq_true] at h
      cases h
    · rfl
  · rw [if_neg (Nat.not_lt.mpr hx), if_pos hx'] at h
    split
    · rfl
    split
    · next hy hy' =>
      refine readCell_writeCell_other _ _ fun hcell => ?_
      change ntIndex s.cart y = ntIndex s.cart x at hcell
      rw [decide_eq_true (Nat.not_lt.mp hy), decide_eq_true hy', hcell, beq_self_eq_true] at h
      cases h
    · rfl
  · rw [if_neg (by omega), if_neg (Nat.not_lt.mpr hx)] at h
    split
    · rfl
    split
    · rfl
    · next hy =>
      refine readCell_writeCell_other _ _ fun hcell => ?_
      rw [decide_eq_true (Nat.not_lt.mp hy), hcell, beq_self_eq_true] at h
      cases h
  · rfl

/-- A store on the PPU bus changes no byte behind a CPU address, not OAM and not PRG-ROM. -/
theorem ppuWrite_cpuSide (x : PpuAddr) (v : Byte) (s : State) :
    (∀ b : Word, peek b (ppuWrite x v s).state = peek b s) ∧ (ppuWrite x v s).state.ppu.oam = s.ppu.oam ∧
      (ppuWrite x v s).state.cart.prgRom = s.cart.prgRom := by
  rcases ppuWrite_cases x v s with ⟨-, heq⟩ | ⟨-, -, heq⟩ | ⟨-, heq⟩ | ⟨r, heq⟩ <;> rw [heq] <;>
    exact ⟨fun _ => rfl, rfl, rfl⟩

/-- What a write at CPU address `a` leaves. -/
structure StoreFrame (a : Word) (s t : State) : Prop where
  byte : ∀ b : Word, a.toNat < 0x8000 ∨ b.toNat < 0x8000 → sameByte a b = false → peek b t = peek b s
  ppu : a.toNat < 0x8000 → ∀ x : PpuAddr,
    (0x2000 ≤ a.toNat ∧ a.toNat < 0x4000 ∧ portOf a = 7) ∧ samePpuByte s.cart (busAddr s.ppu.v) x = true ∨
      ppuRead t x = ppuRead s x
  oam : ∀ k : Nat, (0x2000 ≤ a.toNat ∧ a.toNat < 0x4000 ∧ portOf a = 4) ∧ k = s.ppu.oamAddr.toNat ∨
    readCell t.ppu.oam k = readCell s.ppu.oam k
  mapper : 0x8000 ≤ a.toNat → t.bus.ram = s.bus.ram ∧ t.cart.prgRam = s.cart.prgRam ∧
    t.cart.chr = s.cart.chr ∧ t.cart.ntRam = s.cart.ntRam ∧ t.ppu.palette = s.ppu.palette
  prgRom : t.cart.prgRom = s.cart.prgRom

theorem SameMemory.storeFrame {s t : State} (h : SameMemory s t) (a : Word) : StoreFrame a s t where
  byte b _ _ := peek_congr h.ram h.cart b
  ppu _ x := .inr (ppuRead_congr h.palette h.cart x)
  oam k := .inr (congrArg (readCell · k) h.oam)
  mapper _ := by rw [h.ram, h.cart, h.palette]; exact ⟨rfl, rfl, rfl, rfl, rfl⟩
  prgRom := by rw [h.cart]

/-- A store followed by steps that change no memory. -/
theorem StoreFrame.same {a : Word} {s t u : State} (h : StoreFrame a s t) (k : SameMemory t u) : StoreFrame a s u where
  byte b hb hne := (peek_congr k.ram k.cart b).trans (h.byte b hb hne)
  ppu ha x := (h.ppu ha x).imp_right (ppuRead_congr k.palette k.cart x).trans
  oam n := (h.oam n).imp_right (congrArg (readCell · n) k.oam).trans
  mapper ha := by rw [k.ram, k.cart, k.palette]; exact h.mapper ha
  prgRom := by rw [k.cart]; exact h.prgRom

section
variable {a : Word} (v : Byte) (s : State)

theorem storeFrame_ram (ha : a.toNat < 0x2000) : StoreFrame a s (memWrite a v s).state := by
  rw [memWrite_ram v s ha]
  refine ⟨fun b _ hne => ?_, fun _ _ => .inr rfl, fun _ => .inr rfl, fun _ => by omega, rfl⟩
  unfold peek
  split
  · next hb =>
    refine readCell_writeCell_other _ _ fun heq => ?_
    rw [sameByte, decide_eq_true ha, decide_eq_true hb, heq, beq_self_eq_true] at hne
    simp at hne
  · rfl

/-- A write of a port changes OAM through port 4 and the PPU bus through port 7. -/
theorem storeFrame_port (ha : 0x2000 ≤ a.toNat) (ha' : a.toNat < 0x4000) :
    StoreFrame a s (memWrite a v s).state := by
  have quiet (p : Ppu) (hpalette : p.palette = s.ppu.palette)
      (hoam : ∀ k : Nat, portOf a = 4 ∧ k = s.ppu.oamAddr.toNat ∨ readCell p.oam k = readCell s.ppu.oam k) :
      StoreFrame a s { s.setOpenBus v with ppu := p } := by
    refine ⟨fun _ _ _ => rfl, fun _ x => .inr (ppuRead_congr (t := { s.setOpenBus v with ppu := p }) hpalette rfl x),
      fun k => ?_, fun _ => by omega, rfl⟩
    exact (hoam k).imp_left fun ⟨h4, hk⟩ => ⟨⟨ha, ha', h4⟩, hk⟩
  rw [memWrite_port v s ha ha']
  unfold ppuPortWrite
  iterate 4 (split; · exact quiet _ rfl fun _ => .inr rfl)
  split
  · next h4 => exact quiet _ rfl fun k =>
      (em (k = s.ppu.oamAddr.toNat)).imp (fun hk => ⟨h4, hk⟩) (readCell_writeCell_other _ v)
  split
  · refine quiet _ ?_ ?_ <;> unfold writeScroll <;> split
    exacts [rfl, rfl, fun _ => .inr rfl, fun _ => .inr rfl]
  split
  · refine quiet _ ?_ ?_ <;> unfold writeAddr <;> split
    exacts [rfl, rfl, fun _ => .inr rfl, fun _ => .inr rfl]
  · next h0 h1 h2 h3 h4 h5 h6 =>
    have h7 : portOf a = 7 := by
      have := (portOf a).isLt
      simp only [← BitVec.toNat_inj] at *
      simp at *
      omega
    have hother (x : PpuAddr) := ppuWrite_other (x := busAddr s.ppu.v) (y := x) v (s.setOpenBus v)
    obtain ⟨hpeek, hoam, hrom⟩ := ppuWrite_cpuSide (busAddr s.ppu.v) v (s.setOpenBus v)
    have hsame : SameMemory (ppuWrite (busAddr s.ppu.v) v (s.setOpenBus v)).state
        ((ppuWrite (busAddr s.ppu.v) v (s.setOpenBus v)).bind fun _ t =>
          .ok () { t with ppu := { t.ppu with v := t.ppu.v + dataStep t.ppu } }).state :=
      Act.bind_keeps SameMemory (fun _ _ _ => SameMemory.trans) _ _ _ (SameMemory.refl _)
        fun _ _ => ⟨rfl, rfl, rfl, rfl, rfl⟩
    refine StoreFrame.same ⟨fun b _ _ => hpeek b, fun _ x => ?_, fun k => .inr (congrArg (readCell · k) hoam),
      fun _ => by omega, hrom⟩ hsame
    cases hx : samePpuByte s.cart (busAddr s.ppu.v) x with
    | true => exact .inl ⟨⟨ha, ha', h7⟩, rfl⟩
    | false => exact .inr (hother x hx)

theorem storeFrame_io (ha : 0x4000 ≤ a.toNat) (ha' : a.toNat ≤ 0x4017) : StoreFrame a s (memWrite a v s).state := by
  obtain ⟨hram, hppu⟩ := ioWrite_ram_ppu a v (s.setOpenBus v)
  have hcart := ioWrite_cart a v (s.setOpenBus v)
  rw [memWrite_io v s ha ha', Act.state_ok]
  exact ⟨fun b _ _ => peek_congr hram hcart b, fun _ x => .inr (ppuRead_congr (congrArg Ppu.palette hppu) hcart x),
    fun k => .inr (congrArg (fun p : Ppu => readCell p.oam k) hppu), fun _ => by omega, congrArg Cart.prgRom hcart⟩

/-- A write of PRG-RAM or of a mapper register. -/
theorem storeFrame_cart {d : Cart} (hd : cartWriteCpu s.cart a v = some d) (b : Byte) :
    StoreFrame a s { s.setOpenBus b with cart := d } := by
  rcases cartWriteCpu_cases hd with rfl | ⟨h6, h8, rfl⟩ | ⟨h8, rfl⟩
  · refine SameMemory.storeFrame ?_ a
    exact ⟨rfl, rfl, rfl, rfl, rfl⟩
  · refine ⟨fun c _ hne => ?_, fun _ _ => .inr rfl, fun _ => .inr rfl, fun _ => by omega, rfl⟩
    unfold peek
    split
    · rfl
    split
    · rfl
    split
    · next hwindow =>
      refine readCell_writeCell_other _ _ fun heq => ?_
      have hc6 : 0x6000 ≤ c.toNat := by
        simp only [inPrgRamWindow, Bool.and_eq_true, decide_eq_true_eq] at hwindow
        exact hwindow.1.1
      have hac : a = c := BitVec.eq_of_toNat_eq (by omega)
      rw [sameByte, hac, beq_self_eq_true] at hne
      cases hne
    · rfl
  · have hframe := (mapperWrite_frame a v s.cart).1
    refine ⟨fun c hc _ => ?_, fun _ => by omega, fun _ => .inr rfl,
      fun _ => ⟨rfl, hframe.prgRam, hframe.chr, hframe.ntRam, rfl⟩, hframe.prgRom⟩
    have hlow : ¬ 0x8000 ≤ c.toNat := by omega
    rw [peek, if_neg hlow, peek, if_neg hlow]
    change (if c.toNat < 0x2000 then _ else if (inPrgRamWindow c && prgRamCapable (mapperWrite a v s.cart).mapper.id) = true
      then readCell (mapperWrite a v s.cart).prgRam _ else _) = _
    rw [hframe.id, hframe.prgRam]
    rfl

theorem memWrite_storeFrame : StoreFrame a s (memWrite a v s).state := by
  by_cases h2 : a.toNat < 0x2000
  · exact storeFrame_ram v s h2
  by_cases h4 : a.toNat < 0x4000
  · exact storeFrame_port v s (Nat.not_lt.mp h2) h4
  by_cases hio : a.toNat ≤ 0x4017
  · exact storeFrame_io v s (Nat.not_lt.mp h4) hio
  have halt (r : HaltReason) : StoreFrame a s { s.setOpenBus v with halted := some r } := by
    refine SameMemory.storeFrame ?_ a
    exact ⟨rfl, rfl, rfl, rfl, rfl⟩
  unfold memWrite writeValue
  rw [if_neg h2, if_neg h4, if_neg hio]
  split
  · exact halt _
  split
  · next d hd => exact storeFrame_cart v s hd v
  · exact halt _

end

/-- What an instruction leaves of the memories is what its operation leaves. -/
theorem operate_memory {mn : Mnemonic} {o : Operand} {row : Row} {s s1 t : State} {r : Ref} {e : Nat}
    {f : Ref → State → Act Nat} (hrow : rowFor mn o.mode = some row) (ha : address row.pagePenalty o s = .ok (r, e) s1)
    (h : operate mn o f s = .next t) : SameMemory (f r s1).state t := by
  rw [operate_of_address hrow ha] at h
  cases hf : f r s1 <;> rw [hf] at h <;> cases h <;> exact ⟨rfl, rfl, rfl, rfl, rfl⟩

/-- A store of a register is one write at the operand's address. -/
theorem storeFrom_frame (get : Cpu → Byte) (a : Word) (s : State) :
    StoreFrame a s (storeFrom get (.memory a) s).state := by
  have hstate : (storeFrom get (.memory a) s).state = (memWrite a (get s.cpu) s).state := by
    rw [storeFrom, writeRef]
    cases memWrite a (get s.cpu) s <;> rfl
  rw [hstate]
  exact memWrite_storeFrame _ s

/-- INC and DEC are a read and then one write. -/
theorem modifyOperand_frame (f : Byte → Byte → Byte × Byte) (a : Word) (s : State) :
    StoreFrame a (memRead a s).state (modifyOperand f (.memory a) s).state := by
  cases hread : memRead a s with
  | halt t =>
    have hstate : (modifyOperand f (.memory a) s).state = t := by rw [modifyOperand, readRef, hread]; rfl
    rw [hstate]
    exact (SameMemory.refl t).storeFrame a
  | ok m t =>
    rw [modifyOperand_memory hread]
    refine (memWrite_storeFrame (f m t.cpu.p).1 t).same ?_
    exact Act.bind_keeps SameMemory (fun _ _ _ => SameMemory.trans) _ _ _ (SameMemory.refl _)
        fun _ _ => ⟨rfl, rfl, rfl, rfl, rfl⟩

/-- A shift is a read and then one write. -/
theorem shiftOperand_frame (f : Byte → Byte → Byte × Byte) (a : Word) (s : State) :
    StoreFrame a (memRead a s).state (shiftOperand f (.memory a) s).state := by
  cases hread : memRead a s with
  | halt t =>
    have hstate : (shiftOperand f (.memory a) s).state = t := by rw [shiftOperand, readRef, hread]; rfl
    rw [hstate]
    exact (SameMemory.refl t).storeFrame a
  | ok m t =>
    rw [shiftOperand_memory hread, memWrite_setP]
    refine (memWrite_storeFrame (f m t.cpu.p).1 t).same ?_
    cases memWrite a (f m t.cpu.p).1 t <;> exact ⟨rfl, rfl, rfl, rfl, rfl⟩

/-- Reads before the write change no memory that a store can (rule R71). -/
theorem StoreFrame.of_read {a : Word} {s u t : State} (hu : ReadFrame s u) (h : StoreFrame a u t) :
    (∀ b : Word, a.toNat < 0x8000 ∨ b.toNat < 0x8000 → sameByte a b = false → peek b t = peek b s) ∧
    (a.toNat < 0x8000 → ∀ x : PpuAddr,
      (0x2000 ≤ a.toNat ∧ a.toNat < 0x4000 ∧ portOf a = 7) ∧ samePpuByte s.cart (busAddr u.ppu.v) x = true ∨
        ppuRead t x = ppuRead s x) ∧
    (∀ k : Nat, (0x2000 ≤ a.toNat ∧ a.toNat < 0x4000 ∧ portOf a = 4) ∧ k = s.ppu.oamAddr.toNat ∨
      readCell t.ppu.oam k = readCell s.ppu.oam k) ∧
    (0x8000 ≤ a.toNat → t.bus.ram = s.bus.ram ∧ t.cart.prgRam = s.cart.prgRam ∧
      t.cart.chr = s.cart.chr ∧ t.cart.ntRam = s.cart.ntRam ∧ t.ppu.palette = s.ppu.palette) ∧
    t.cart.prgRom = s.cart.prgRom := by
  obtain ⟨hoam, hoamAddr⟩ := hu.oam
  have hpalette : u.ppu.palette = s.ppu.palette := by rw [hu.ppu]
  refine ⟨fun b hb hne => (h.byte b hb hne).trans (hu.peek b), fun ha x => ?_, fun k => ?_, fun ha => ?_, ?_⟩
  · have hx := h.ppu ha x
    rw [hu.cart] at hx
    exact hx.imp_right fun heq => heq.trans (hu.ppuRead x)
  · exact hoam ▸ hoamAddr ▸ h.oam k
  · rw [← hu.ram, ← hu.cart, ← hpalette]
    exact h.mapper ha
  · exact h.prgRom.trans (congrArg Cart.prgRom hu.cart)

end Sys2Proof.Machine
end

section
/-! The frame of the storing forms, O31. -/

section

open Sys2Proof Sys2Proof.Machine

/-- Settles O31: a store is one bus write after the reads of its addressing mode, and a read-modify-write one after
its own read too. -/
theorem storesChangeOnlyTheirByte : Obligations.StoresChangeOnlyTheirByte := by
  unfold Obligations.StoresChangeOnlyTheirByte
  intro i mn o row s s1 t a e hshape hrow hmn ha h before isPort
  have hmode : ReadFrame s s1 := by
    have := address_frame row.pagePenalty o s
    rwa [ha] at this
  have stores {get : Cpu → Byte} (hrun : operate mn o (storeFrom get) s = .next t) : StoreFrame a s1 t :=
    (storeFrom_frame get a s1).same (operate_memory hrow ha hrun)
  have modifies {f : Byte → Byte → Byte × Byte} (hrun : operate mn o (modifyOperand f) s = .next t) :
      StoreFrame a (memRead a s1).state t := (modifyOperand_frame f a s1).same (operate_memory hrow ha hrun)
  have shifts {f : Byte → Byte → Byte × Byte} (hrun : operate mn o (shiftOperand f) s = .next t) :
      StoreFrame a (memRead a s1).state t := (shiftOperand_frame f a s1).same (operate_memory hrow ha hrun)
  rw [← instrOf_shape hshape] at h
  have key : ReadFrame s before ∧ StoreFrame a before t := by
    have hread := hmode.trans (memRead_frame a s1)
    cases mn
    case sta => exact ⟨hmode, stores h⟩
    case stx => exact ⟨hmode, stores h⟩
    case sty => exact ⟨hmode, stores h⟩
    case inc => exact ⟨hread, modifies h⟩
    case dec => exact ⟨hread, modifies h⟩
    case asl => exact ⟨hread, shifts h⟩
    case lsr => exact ⟨hread, shifts h⟩
    case rol => exact ⟨hread, shifts h⟩
    case ror => exact ⟨hread, shifts h⟩
    all_goals exact absurd hmn (by decide)
  exact key.2.of_read key.1

end
end

section
/-! SUPPORT. The position of a dot in its frame (rules R297, R302, R303). -/

namespace Sys2Proof.Machine

/-- Where a PPU is in its frame. -/
structure Position where
  state : RenderState
  line : Nat
  cycle : Nat
  odd : Bool

def positionOf (p : Ppu) : Position := ⟨p.renderState, p.scanline, p.cycle, p.oddFrame⟩

/-- The render state of the scanline after `line`. -/
def nextState (state : RenderState) (line : Nat) : RenderState :=
  if line = 239 then .postRender else if line = 241 then .verticalBlanking
    else if line = 260 then .finished else if line = 261 then .render else state

/-- The position after a dot whose scanline ends at `last`. -/
def Position.next (q : Position) (last : Nat) : Position :=
  if q.cycle < last then ⟨q.state, q.line, q.cycle + 1, q.odd⟩
  else ⟨nextState q.state q.line, if q.line = 261 then 0 else q.line + 1, 0, q.odd != decide (q.line = 261)⟩

theorem advance_next (p : Ppu) : positionOf (advance p) = (positionOf p).next (lastDot p) := by
  unfold advance Position.next positionOf
  dsimp only
  split
  · rfl
  unfold nextState
  split
  · next h => simp [h]
  split
  · next h => simp [h]
  split
  · next h => simp [h]
  split
  · next h => simp [h]
  · next h => simp [h]

theorem lastDot_eq (p : Ppu) :
    lastDot p = if p.renderState = .preRender ∧ p.oddFrame = true then 339 else 340 := by
  simp [lastDot]

theorem clock_next {s : State} (h : s.halted = none) (hf : s.ppu.renderState ≠ .finished) :
    positionOf (clock s).2.ppu = (positionOf s.ppu).next (lastDot s.ppu) := by
  have hframe : ActionFrame s (dotAction s).2 := (dotAction_effect s).frame
  rw [clock_runs h hf]
  refine (advance_next _).trans ?_
  rw [hframe]
  rfl

/-- A dot of the system step moves the same way, and does not halt. -/
theorem dot_next {s : State} (h : s.halted = none) (hf : s.ppu.renderState ≠ .finished) :
    positionOf (dot s).ppu = (positionOf s.ppu).next (lastDot s.ppu) := by
  have hreset : resetFrame s = s := if_neg hf
  have hforward (e : PpuEvent) (u : State) : (forward e u).ppu = u.ppu := by cases e <;> rfl
  rw [dot, hreset, hforward]
  exact clock_next h hf

/-- The render state of a scanline counted from the first Render line, up to the end of the frame. -/
def lineState (line : Nat) : RenderState :=
  if line < 240 then .render else if line < 242 then .postRender
    else if line < 261 then .verticalBlanking else .finished

/-- How many dots the PreRender line takes. -/
def preRenderDots (odd : Bool) : Nat := if odd then 340 else 341

/-- The position `k` dots after the first dot of PreRender. -/
def framePosition (odd : Bool) (k : Nat) : Position :=
  if k < preRenderDots odd then ⟨.preRender, 261, k, odd⟩
  else ⟨lineState ((k - preRenderDots odd) / 341), (k - preRenderDots odd) / 341, (k - preRenderDots odd) % 341, !odd⟩

/-- The dots of a frame: its PreRender line and 261 lines of 341 dots. -/
def frameDots (odd : Bool) : Nat := preRenderDots odd + 89001

theorem framePosition_last (odd : Bool) : framePosition odd (frameDots odd) = ⟨.finished, 261, 0, !odd⟩ := by
  cases odd <;> rfl

theorem lineState_ne {line : Nat} (h : line < 261) : lineState line ≠ .finished ∧ lineState line ≠ .preRender := by
  unfold lineState
  rw [if_pos h]
  split_ifs <;> simp

theorem framePosition_running {odd : Bool} {k : Nat} (h : k < frameDots odd) :
    (framePosition odd k).state ≠ .finished := by
  unfold framePosition
  split
  · exact RenderState.noConfusion
  · exact (lineState_ne (by unfold frameDots at h; omega)).1

/-- The scanline after one of Render, PostRender or VerticalBlanking. -/
theorem nextState_lineState {line : Nat} (h : line < 261) : nextState (lineState line) line = lineState (line + 1) := by
  have hends : line = 239 ∨ line = 241 ∨ line = 260 ∨ line ≠ 239 ∧ line ≠ 241 ∧ line ≠ 260 := by omega
  rcases hends with rfl | rfl | rfl | ⟨h239, h241, h260⟩
  · rfl
  · rfl
  · rfl
  · have hrender : line + 1 < 240 ↔ line < 240 := by omega
    have hpost : line + 1 < 242 ↔ line < 242 := by omega
    have hvblank : line + 1 < 261 ↔ line < 261 := by omega
    rw [nextState, if_neg h239, if_neg h241, if_neg h260, if_neg (Nat.ne_of_lt h)]
    simp only [lineState, hrender, hpost, hvblank]

/-- In the PreRender line a dot moves on, and from its last dot to the first Render line. -/
theorem framePosition_next_preRender {odd : Bool} {k : Nat} (h : k < preRenderDots odd) {last : Nat}
    (hlast : last + 1 = preRenderDots odd) : (framePosition odd k).next last = framePosition odd (k + 1) := by
  rw [framePosition, if_pos h]
  by_cases hnext : k + 1 < preRenderDots odd
  · rw [framePosition, if_pos hnext]
    exact if_pos (show k < last by omega)
  · have hzero : k + 1 - preRenderDots odd = 0 := by omega
    rw [framePosition, if_neg hnext, hzero]
    refine (if_neg (show ¬ k < last by omega)).trans ?_
    cases odd <;> rfl

/-- In the 261 lines after it a dot moves on, and from dot 340 to the next line. -/
theorem framePosition_next_line (odd : Bool) {j : Nat} (h : j < 89001) :
    (framePosition odd (preRenderDots odd + j)).next 340 = framePosition odd (preRenderDots odd + j + 1) := by
  have at_line (i : Nat) : framePosition odd (preRenderDots odd + i) = ⟨lineState (i / 341), i / 341, i % 341, !odd⟩ := by
    rw [framePosition, if_neg (by omega), Nat.add_sub_cancel_left]
  rw [at_line, Nat.add_assoc, at_line]
  by_cases hnext : j % 341 < 340
  · have hline : (j + 1) / 341 = j / 341 := by omega
    have hcycle : (j + 1) % 341 = j % 341 + 1 := by omega
    rw [hline, hcycle]
    exact if_pos hnext
  · have hline : (j + 1) / 341 = j / 341 + 1 := by omega
    have hcycle : (j + 1) % 341 = 0 := by omega
    have hlt : j / 341 < 261 := by omega
    rw [hline, hcycle, ← nextState_lineState hlt]
    refine (if_neg hnext).trans ?_
    have hne : ¬ j / 341 = 261 := by omega
    simp [hne]

/-- Each dot of the frame moves to the next position. -/
theorem framePosition_next {odd : Bool} {k : Nat} (h : k < frameDots odd) {p : Ppu}
    (hp : positionOf p = framePosition odd k) : (positionOf p).next (lastDot p) = framePosition odd (k + 1) := by
  have hlast : lastDot p = if (framePosition odd k).state = .preRender ∧ (framePosition odd k).odd = true then 339
      else 340 := by
    rw [← hp]
    exact lastDot_eq p
  rw [hp]
  by_cases hfirst : k < preRenderDots odd
  · refine framePosition_next_preRender hfirst ?_
    rw [hlast, framePosition, if_pos hfirst]
    cases odd <;> rfl
  · obtain ⟨j, rfl⟩ := Nat.exists_eq_add_of_le (Nat.not_lt.mp hfirst)
    have hj : j < 89001 := Nat.lt_of_add_lt_add_left h
    have hstate : (framePosition odd (preRenderDots odd + j)).state ≠ .preRender := by
      rw [framePosition, if_neg hfirst, Nat.add_sub_cancel_left]
      exact (lineState_ne (by omega)).2
    rw [hlast, if_neg fun h => hstate h.1]
    exact framePosition_next_line odd hj

theorem dots_position {s : State} (hs : s.halted = none) (hp : positionOf s.ppu = ⟨.preRender, 261, 0, s.ppu.oddFrame⟩)
    {k : Nat} (hk : k ≤ frameDots s.ppu.oddFrame) :
    (dot^[k] s).halted = none ∧ positionOf (dot^[k] s).ppu = framePosition s.ppu.oddFrame k := by
  induction k with
  | zero =>
    have hfirst : (0 : Nat) < preRenderDots s.ppu.oddFrame := by unfold preRenderDots; split <;> decide
    exact ⟨hs, hp.trans (if_pos hfirst).symm⟩
  | succ k ih =>
    obtain ⟨hhalt, hpos⟩ := ih (by omega)
    have hrun : (dot^[k] s).ppu.renderState ≠ .finished := by
      have := framePosition_running (odd := s.ppu.oddFrame) (k := k) (by omega)
      rwa [← hpos] at this
    rw [Function.iterate_succ_apply', dot_next hhalt hrun, dot_halted]
    exact ⟨hhalt, framePosition_next (by omega) hpos⟩

end Sys2Proof.Machine
end

section
/-! The dots of a frame, O49. -/

section

open Sys2Proof Sys2Proof.Machine

/-- Settles O49: `clock_next` for one dot, `dots_position` for the frame. -/
theorem frameTakesItsDots : Obligations.FrameTakesItsDots := by
  unfold Obligations.FrameTakesItsDots
  refine ⟨fun s hs hf => ?dot, fun s hs hstate hline hcycle => ?frame⟩
  case dot =>
    intro last line p
    have hlast : lastDot s.ppu = last := lastDot_eq s.ppu
    have hp : positionOf p = (positionOf s.ppu).next last := hlast ▸ clock_next hs hf
    refine ⟨fun hlt => ?_, fun hge => ?_⟩
    · have hnext := hp.trans (if_pos hlt)
      exact ⟨congrArg Position.cycle hnext, congrArg Position.line hnext, congrArg Position.state hnext,
        congrArg Position.odd hnext⟩
    · have hnext := hp.trans (if_neg (Nat.not_lt.mpr hge))
      exact ⟨congrArg Position.cycle hnext, congrArg Position.line hnext, congrArg Position.state hnext,
        congrArg Position.odd hnext⟩
  case frame =>
    intro n t
    have hn : n = frameDots s.ppu.oddFrame := by
      unfold n
      cases s.ppu.oddFrame <;> rfl
    have hstart : positionOf s.ppu = ⟨.preRender, 261, 0, s.ppu.oddFrame⟩ := by
      rw [positionOf, hstate, hline, hcycle]
    have hlast : framePosition s.ppu.oddFrame n = ⟨.finished, 261, 0, !s.ppu.oddFrame⟩ := by
      rw [hn, framePosition_last]
    obtain ⟨hhalt, hat⟩ := dots_position hs hstart (k := n) hn.le
    have hpos := hat.trans hlast
    refine ⟨hhalt, congrArg Position.state hpos, congrArg Position.line hpos, congrArg Position.cycle hpos,
      congrArg Position.odd hpos, fun k hk => ?_⟩
    rw [hn] at hk
    have hrun := framePosition_running hk
    rw [← (dots_position hs hstart hk.le).2] at hrun
    exact hrun

end
end

section
/-! SUPPORT. The background pixel in numbers (rule R304): the addresses the model makes by OR are the sums of rule
R304, because their parts are in different bits. -/

namespace Sys2Proof.Machine

/-- Words with no bit in common: OR is addition. -/
theorem toNat_or_disjoint {w : Nat} {x y : BitVec w} (h : x &&& y = 0#w) (hlt : x.toNat + y.toNat < 2 ^ w) :
    (x ||| y).toNat = x.toNat + y.toNat := by
  rw [← BitVec.add_eq_or_of_and_eq_zero x y h, BitVec.toNat_add, Nat.mod_eq_of_lt hlt]

/-- A word and a masked one have no bit in common where the mask has none. -/
theorem and_masked {w : Nat} {x m : BitVec w} (v : BitVec w) (h : x &&& m = 0#w) : x &&& (v &&& m) = 0#w := by
  rw [BitVec.and_comm v, ← BitVec.and_assoc, h, BitVec.zero_and]

theorem busAddr_toNat (v : Scroll) : (busAddr v).toNat = v.toNat % 16384 := BitVec.toNat_setWidth ..

/-- A masked field, where the mask is the field's. -/
theorem maskedField_toNat {x m : PpuAddr} {start len : Nat} (h : x &&& m = (x.extractLsb' start len).setWidth 14 <<< start)
    (hlen : start + len ≤ 14) : (x &&& m).toNat = x.toNat / 2 ^ start % 2 ^ len * 2 ^ start := by
  have hlt := Nat.mod_lt (x.toNat / 2 ^ start) (Nat.two_pow_pos len)
  have hpow : 2 ^ (start + len) ≤ 2 ^ 14 := Nat.pow_le_pow_right (by decide) hlen
  have hfield : x.toNat / 2 ^ start % 2 ^ len * 2 ^ start < 2 ^ 14 := by
    rw [Nat.pow_add, Nat.mul_comm] at hpow
    exact (Nat.mul_lt_mul_of_pos_right hlt (Nat.two_pow_pos start)).trans_le hpow
  have hsmall : x.toNat / 2 ^ start % 2 ^ len < 2 ^ 14 :=
    (Nat.le_mul_of_pos_right _ (Nat.two_pow_pos start)).trans_lt hfield
  rw [h, BitVec.toNat_shiftLeft, BitVec.toNat_setWidth, field_toNat, Nat.shiftLeft_eq, Nat.mod_eq_of_lt hsmall,
    Nat.mod_eq_of_lt hfield]

/-- The PPU addresses of the background at `v` (rule R304). -/
def tileAddress (v : PpuAddr) : PpuAddr := 0x2000#14 ||| (v &&& 0x0FFF#14)
def attrAddress (v : PpuAddr) : PpuAddr :=
  0x23C0#14 ||| (v &&& 0x0C00#14) ||| ((v >>> 4) &&& 0x38#14) ||| ((v >>> 2) &&& 0x07#14)
def rowAddress (base : Nat) (tile : Byte) (v : Scroll) : PpuAddr :=
  BitVec.ofNat 14 base ||| (tile.setWidth 14 <<< 4) ||| (v.extractLsb' 12 3).setWidth 14

/-- How far the palette bits of the tile's quadrant are in its byte. -/
def quadrantShift (v : PpuAddr) : Nat := (((v >>> 4) &&& 4#14) ||| (v &&& 2#14)).toNat

theorem tileAddress_eq (v : Scroll) :
    tileAddress (busAddr v) =
      BitVec.ofNat 14 (0x2000 + 1024 * (v.toNat / 1024 % 4) + 32 * (v.toNat / 32 % 32) + v.toNat % 32) := by
  have hlow : (busAddr v &&& 0x0FFF#14).toNat = v.toNat % 4096 := by
    rw [BitVec.toNat_and, busAddr_toNat]
    exact (Nat.and_two_pow_sub_one_eq_mod _ 12).trans (Nat.mod_mod_of_dvd _ (by decide))
  have hor := toNat_or_disjoint (and_masked (x := 0x2000#14) (busAddr v) (m := 0x0FFF#14) rfl)
    (by rw [hlow, BitVec.toNat_ofNat]; omega)
  refine BitVec.eq_of_toNat_eq ?_
  rw [tileAddress, hor, hlow, BitVec.toNat_ofNat, BitVec.toNat_ofNat]
  omega

/-- The fields of `v` in a word cut to fourteen bits. -/
theorem busFields (v : Nat) :
    v % 16384 / 16 / 4 % 2 = v / 32 % 32 / 2 % 2 ∧ v % 16384 / 2 % 2 = v % 32 / 2 % 2 ∧
    v % 16384 / 1024 % 4 = v / 1024 % 4 ∧ v % 16384 / 16 / 8 % 8 = v / 32 % 32 / 4 ∧
    v % 16384 / 4 % 8 = v % 32 / 4 := by
  refine ⟨?_, ?_, ?_, ?_, ?_⟩ <;> omega

theorem quadrantShift_eq (v : Scroll) :
    quadrantShift (busAddr v) = 2 * (2 * (v.toNat / 32 % 32 / 2 % 2) + v.toNat % 32 / 2 % 2) := by
  obtain ⟨hr, hc, _, _, _⟩ := busFields v.toNat
  have hrow : ((busAddr v >>> 4) &&& 4#14).toNat = (busAddr v >>> 4).toNat / 4 % 2 * 4 :=
    maskedField_toNat (start := 2) (len := 1) (by ext i hi; interval_cases i <;> simp) (by decide)
  have hcolumn : (busAddr v &&& 2#14).toNat = (busAddr v).toNat / 2 % 2 * 2 :=
    maskedField_toNat (start := 1) (len := 1) (by ext i hi; interval_cases i <;> simp) (by decide)
  have hdisjoint : ((busAddr v >>> 4) &&& 4#14) &&& (busAddr v &&& 2#14) = 0#14 :=
    and_masked _ (by rw [BitVec.and_assoc]; exact BitVec.and_zero)
  rw [BitVec.toNat_ushiftRight, Nat.shiftRight_eq_div_pow, busAddr_toNat, hr] at hrow
  rw [busAddr_toNat, hc] at hcolumn
  have hrowLt : v.toNat / 32 % 32 / 2 % 2 < 2 := Nat.mod_lt _ Nat.two_pos
  have hcolumnLt : v.toNat % 32 / 2 % 2 < 2 := Nat.mod_lt _ Nat.two_pos
  generalize v.toNat / 32 % 32 / 2 % 2 = row at *
  generalize v.toNat % 32 / 2 % 2 = column at *
  rw [quadrantShift, toNat_or_disjoint hdisjoint (by rw [hrow, hcolumn]; omega), hrow, hcolumn]
  ring

theorem attrAddress_eq (v : Scroll) :
    attrAddress (busAddr v) =
      BitVec.ofNat 14 (0x23C0 + 1024 * (v.toNat / 1024 % 4) + 8 * (v.toNat / 32 % 32 / 4) + v.toNat % 32 / 4) := by
  obtain ⟨_, _, hn, hr, hc⟩ := busFields v.toNat
  have hnt : (busAddr v &&& 0x0C00#14).toNat = (busAddr v).toNat / 1024 % 4 * 1024 :=
    maskedField_toNat (start := 10) (len := 2) (by ext i hi; interval_cases i <;> simp) (by decide)
  have hrow : ((busAddr v >>> 4) &&& 0x38#14).toNat = (busAddr v >>> 4).toNat / 8 % 8 * 8 :=
    maskedField_toNat (start := 3) (len := 3) (by ext i hi; interval_cases i <;> simp) (by decide)
  have hcolumn : ((busAddr v >>> 2) &&& 0x07#14).toNat = (busAddr v >>> 2).toNat % 8 := by
    rw [BitVec.toNat_and]
    exact Nat.and_two_pow_sub_one_eq_mod _ 3
  rw [BitVec.toNat_ushiftRight, Nat.shiftRight_eq_div_pow, busAddr_toNat, hr] at hrow
  rw [BitVec.toNat_ushiftRight, Nat.shiftRight_eq_div_pow, busAddr_toNat, hc] at hcolumn
  rw [busAddr_toNat, hn] at hnt
  have hd1 : 0x23C0#14 &&& (busAddr v &&& 0x0C00#14) = 0#14 := and_masked _ rfl
  have hd2 : (0x23C0#14 ||| (busAddr v &&& 0x0C00#14)) &&& ((busAddr v >>> 4) &&& 0x38#14) = 0#14 := by
    refine and_masked _ ?_
    rw [BitVec.and_or_distrib_right, BitVec.and_assoc]
    exact BitVec.zero_or.trans BitVec.and_zero
  have hd3 : (0x23C0#14 ||| (busAddr v &&& 0x0C00#14) ||| ((busAddr v >>> 4) &&& 0x38#14)) &&&
      ((busAddr v >>> 2) &&& 0x07#14) = 0#14 := by
    refine and_masked _ ?_
    rw [BitVec.and_or_distrib_right, BitVec.and_or_distrib_right, BitVec.and_assoc, BitVec.and_assoc]
    exact (congrArg₂ _ (BitVec.zero_or.trans BitVec.and_zero) BitVec.and_zero).trans BitVec.zero_or
  have hbase : (0x23C0#14).toNat = 0x23C0 := rfl
  have hrowLt : v.toNat / 32 % 32 / 4 < 8 := by omega
  have hntLt : v.toNat / 1024 % 4 < 4 := by omega
  have hcolumnLt : v.toNat % 32 / 4 < 8 := by omega
  generalize v.toNat / 32 % 32 / 4 = row at *
  generalize v.toNat / 1024 % 4 = nt at *
  generalize v.toNat % 32 / 4 = column at *
  have h1 := toNat_or_disjoint hd1 (by rw [hnt, hbase]; omega)
  rw [hnt, hbase] at h1
  have h2 := toNat_or_disjoint hd2 (by rw [h1, hrow]; omega)
  rw [h1, hrow] at h2
  have h3 := toNat_or_disjoint hd3 (by rw [h2, hcolumn]; omega)
  refine BitVec.eq_of_toNat_eq ?_
  rw [attrAddress, h3, h2, hcolumn, BitVec.toNat_ofNat]
  omega

/-- The address of the tile's pattern row; plane 1 is eight bytes after it. -/
theorem rowAddress_eq {base : Nat} (hbase : base = 0 ∨ base = 0x1000) (tile : Byte) (v : Scroll) :
    rowAddress base tile v = BitVec.ofNat 14 (base + 16 * tile.toNat + v.toNat / 4096) := by
  have htile : (tile.setWidth 14 <<< 4).toNat = 16 * tile.toNat := by
    rw [BitVec.toNat_shiftLeft, BitVec.toNat_setWidth, Nat.shiftLeft_eq]
    omega
  have hfine : ((v.extractLsb' 12 3).setWidth 14).toNat = v.toNat / 4096 := by
    rw [BitVec.toNat_setWidth, field_toNat]
    omega
  have hd1 : BitVec.ofNat 14 base &&& (tile.setWidth 14 <<< 4) = 0#14 := by
    rcases hbase with rfl | rfl <;> ext i hi <;> interval_cases i <;> simp
  have hd2 : (BitVec.ofNat 14 base ||| (tile.setWidth 14 <<< 4)) &&& (v.extractLsb' 12 3).setWidth 14 = 0#14 := by
    rcases hbase with rfl | rfl <;> ext i hi <;> interval_cases i <;> simp
  have hb : (BitVec.ofNat 14 base).toNat = base := by
    rcases hbase with rfl | rfl <;> rfl
  have hbound : base ≤ 0x1000 := by omega
  have h1 := toNat_or_disjoint hd1 (by rw [hb, htile]; omega)
  rw [hb, htile] at h1
  have h2 := toNat_or_disjoint hd2 (by rw [h1, hfine]; omega)
  refine BitVec.eq_of_toNat_eq ?_
  rw [rowAddress, h2, h1, hfine, BitVec.toNat_ofNat]
  omega

/-- The pattern pixel in column `k` of the row at `a`: `patternBits` of both planes is `patternValue`. -/
theorem patternPixel_toNat (s : State) (a k : Nat) :
    (patternBits (ppuRead s (BitVec.ofNat 14 a)) (ppuRead s (BitVec.ofNat 14 a + 8)) (7 - k)).toNat =
      patternValue s a k := by
  rw [patternBits_toNat, show BitVec.ofNat 14 a + 8 = BitVec.ofNat 14 (a + 8) from (BitVec.ofNat_add a 8).symm]
  rfl

/-- Where the background shows at column `px` (rule R304). -/
theorem hidden_iff (m : Byte) (px k l : Nat) :
    (!m.getLsbD k || (decide (px < 8) && !m.getLsbD l)) = true ↔
      m.getLsbD k = false ∨ px < 8 ∧ m.getLsbD l = false := by
  simp

theorem backgroundPixel_shown {s : State} {px : Nat}
    (h : ¬ (s.ppu.mask.getLsbD 3 = false ∨ px < 8 ∧ s.ppu.mask.getLsbD 1 = false)) :
    backgroundPixel s px =
      let row := rowAddress (if s.ppu.ctrl.getLsbD 4 then 0x1000 else 0)
        (ppuRead s (tileAddress (busAddr s.ppu.v))) s.ppu.v
      (patternBits (ppuRead s row) (ppuRead s (row + 8)) (7 - (s.ppu.x.toNat + px) % 8),
        (ppuRead s (attrAddress (busAddr s.ppu.v)) >>> quadrantShift (busAddr s.ppu.v)).setWidth 2) := by
  unfold backgroundPixel
  rw [if_neg (mt (hidden_iff ..).mp h)]
  cases s.ppu.ctrl.getLsbD 4 <;> rfl

/-- The two bits of a byte at an even place. -/
theorem quadrant_toNat (b : Byte) (k : Nat) : ((b >>> (2 * k)).setWidth 2).toNat = b.toNat / 4 ^ k % 4 := by
  rw [BitVec.toNat_setWidth, BitVec.toNat_ushiftRight, Nat.shiftRight_eq_div_pow, Nat.pow_mul]

/-- Rule R304 in numbers. -/
theorem backgroundPixel_toNat (s : State) (px : Nat) :
    (backgroundPixel s px).1.toNat = (backgroundNumbers s px).1 ∧
    (backgroundPixel s px).2.toNat = (backgroundNumbers s px).2 := by
  by_cases h : s.ppu.mask.getLsbD 3 = false ∨ px < 8 ∧ s.ppu.mask.getLsbD 1 = false
  · have hmodel : backgroundPixel s px = (0, 0) := if_pos ((hidden_iff ..).mpr h)
    have hnumbers : backgroundNumbers s px = (0, 0) := if_pos h
    rw [hmodel, hnumbers]
    exact ⟨rfl, rfl⟩
  · have hbase : (if s.ppu.ctrl.getLsbD 4 then 0x1000 else 0) = 0 ∨
        (if s.ppu.ctrl.getLsbD 4 then 0x1000 else 0) = 0x1000 := by
      split
      · exact .inr rfl
      · exact .inl rfl
    rw [backgroundPixel_shown h, tileAddress_eq, attrAddress_eq, quadrantShift_eq, rowAddress_eq hbase]
    unfold backgroundNumbers
    dsimp only
    rw [if_neg h]
    exact ⟨patternPixel_toNat .., quadrant_toNat ..⟩

end Sys2Proof.Machine
end

section
/-! SUPPORT. The sprite pixel in numbers (rule R305). -/

namespace Sys2Proof.Machine

/-- What entry `i` shows at a pixel that it covers. -/
def spriteOf (s : State) (px line : Nat) (i : BitVec 6) : SpritePixel :=
  ⟨BitVec.ofNat 2 (spriteNumber s px line i.toNat), (oamByte s.ppu i 2).setWidth 2,
    (oamByte s.ppu i 2).getLsbD 5, i == 0⟩

/-- The row of the sprite that the line shows, by the vertical flip. -/
theorem spriteRow_eq (attr : Byte) {y line h : Nat} (hy : y < line) (hline : line ≤ y + h) :
    (if attr.getLsbD 7 then h - 1 - (line - 1 - y) else line - 1 - y) =
      if attr.toNat / 128 = 1 then y + h - line else line - 1 - y := by
  have hbit : attr.getLsbD 7 = true ↔ attr.toNat / 128 = 1 := by
    rw [getLsbD_seven, decide_eq_true_eq]
    omega
  by_cases hflip : attr.getLsbD 7 = true
  · rw [if_pos hflip, if_pos (hbit.mp hflip)]
    omega
  · rw [if_neg hflip, if_neg (mt hbit.mpr hflip)]

/-- The bit of the pattern row that the column shows, by the horizontal flip. -/
theorem spriteColumn_eq (attr : Byte) {x px : Nat} (hx : x ≤ px) (hpx : px ≤ x + 7) :
    (if attr.getLsbD 6 then px - x else 7 - (px - x)) =
      7 - if attr.toNat / 64 % 2 = 1 then x + 7 - px else px - x := by
  have hbit : attr.getLsbD 6 = true ↔ attr.toNat / 64 % 2 = 1 := by
    rw [getLsbD_eq_div]
    exact decide_eq_true_iff
  by_cases hflip : attr.getLsbD 6 = true
  · rw [if_pos hflip, if_pos (hbit.mp hflip)]
    omega
  · rw [if_neg hflip, if_neg (mt hbit.mpr hflip)]

theorem spritePattern_eq (p : Ppu) (tile : Byte) (row : Nat) :
    spritePattern p tile row = BitVec.ofNat 14
      (if p.ctrl.getLsbD 5 then 0x1000 * (tile.toNat % 2) + 16 * (tile.toNat / 2 * 2 + row / 8) + row % 8
        else (if p.ctrl.getLsbD 3 then 0x1000 else 0) + 16 * tile.toNat + row) := by
  unfold spritePattern spriteHeight
  cases p.ctrl.getLsbD 5
  · exact congrArg (fun n => BitVec.ofNat 14 (_ + n + row)) (Nat.mul_comm ..)
  · rw [Nat.mul_comm 0x1000, Nat.mul_comm 16]
    rfl

theorem oamByte_toNat (s : State) (i : BitVec 6) (k : Nat) : (oamByte s.ppu i k).toNat = oamNumber s i.toNat k := rfl

/-- Whether entry `i` covers the pixel. -/
def Covers (s : State) (px line i : Nat) : Prop :=
  oamNumber s i 3 ≤ px ∧ px ≤ oamNumber s i 3 + 7 ∧ oamNumber s i 0 < line ∧
    line ≤ oamNumber s i 0 + spriteHeight s.ppu

theorem covers_iff (s : State) (px line i : Nat) :
    Covers s px line i ↔
      (decide (px < oamNumber s i 3) || decide (oamNumber s i 3 + 7 < px)) = false ∧
      (decide (line < oamNumber s i 0 + 1) || decide (oamNumber s i 0 + spriteHeight s.ppu < line)) = false := by
  simp only [Covers, Bool.or_eq_false_iff, decide_eq_false_iff_not]
  omega

theorem spriteAt_uncovered {s : State} {px line : Nat} {i : BitVec 6} (h : ¬ Covers s px line i.toNat) :
    spriteAt s px line i = none := by
  rw [covers_iff, not_and, Bool.not_eq_false] at h
  unfold spriteAt
  dsimp only
  split
  · rfl
  · next hx => exact if_pos (h (Bool.eq_false_iff.mpr hx))

/-- Where entry `i` covers the pixel its value is `spriteNumber`. -/
theorem spriteAt_covered {s : State} {px line : Nat} {i : BitVec 6} (h : Covers s px line i.toNat) :
    spriteAt s px line i =
      if BitVec.ofNat 2 (spriteNumber s px line i.toNat) = 0 then none else some (spriteOf s px line i) := by
  obtain ⟨hx, hy⟩ := (covers_iff ..).mp h
  obtain ⟨hx1, hx2, hy1, hy2⟩ := h
  have hvalue : ∀ a k, patternBits (ppuRead s (BitVec.ofNat 14 a)) (ppuRead s (BitVec.ofNat 14 a + 8)) (7 - k) =
      BitVec.ofNat 2 (patternValue s a k) := fun a k =>
    BitVec.eq_of_toNat_eq ((patternPixel_toNat s a k).trans
      (Nat.mod_eq_of_lt (patternValue_lt s a k)).symm)
  unfold spriteAt spriteOf
  have hnumber : spriteNumber s px line i.toNat = _ := if_pos ⟨hx1, hx2, hy1, hy2⟩
  dsimp only
  refine (if_neg (Bool.eq_false_iff.mp hx)).trans ((if_neg (Bool.eq_false_iff.mp hy)).trans ?_)
  rw [oamByte_toNat, oamByte_toNat, hnumber, spriteRow_eq _ hy1 hy2, spriteColumn_eq _ hx1 hx2, spritePattern_eq,
    hvalue]
  rfl

/-- The pixel of entry `i` in numbers: none where its value is 0. -/
theorem spriteAt_eq (s : State) (px line : Nat) (i : BitVec 6) :
    spriteAt s px line i = if 0 < spriteNumber s px line i.toNat then some (spriteOf s px line i) else none := by
  by_cases h : Covers s px line i.toNat
  · have hzero : BitVec.ofNat 2 (spriteNumber s px line i.toNat) = 0 ↔ ¬ 0 < spriteNumber s px line i.toNat := by
      rw [← BitVec.toNat_inj, BitVec.toNat_ofNat, Nat.mod_eq_of_lt (spriteNumber_lt ..), Nat.not_lt, Nat.le_zero]
      rfl
    rw [spriteAt_covered h, ite_cond_congr (propext hzero), ite_not]
  · have hnumber : spriteNumber s px line i.toNat = 0 := if_neg h
    rw [spriteAt_uncovered h, hnumber, if_neg (Nat.lt_irrefl 0)]

/-- The cached OAM entry in front, where sprites show (rule R305). -/
def frontEntry (s : State) (px line : Nat) : Option (BitVec 6) :=
  if s.ppu.mask.getLsbD 4 = false ∨ px < 8 ∧ s.ppu.mask.getLsbD 2 = false then none
  else (cachedSprites s.ppu).find? fun i => decide (0 < spriteNumber s px line i.toNat)

theorem frontSprite_eq (s : State) (px line : Nat) :
    frontSprite s px line = (frontEntry s px line).map BitVec.toNat := by
  unfold frontSprite frontEntry
  split
  · rfl
  · exact List.find?_map ..

/-- The first entry with a pixel, and that pixel. -/
theorem findSome?_spriteAt (s : State) (px line : Nat) (is : List (BitVec 6)) :
    is.findSome? (spriteAt s px line) =
      (is.find? fun i => decide (0 < spriteNumber s px line i.toNat)).map (spriteOf s px line) := by
  induction is with
  | nil => rfl
  | cons i is ih =>
    rw [List.findSome?_cons, List.find?_cons, spriteAt_eq]
    by_cases h : 0 < spriteNumber s px line i.toNat
    · rw [if_pos h, decide_eq_true h]
      rfl
    · rw [if_neg h, decide_eq_false h]
      exact ih

theorem spritePixel_eq (s : State) (px line : Nat) :
    spritePixel s px line = ((frontEntry s px line).map (spriteOf s px line)).getD noSprite := by
  unfold spritePixel frontEntry
  by_cases h : s.ppu.mask.getLsbD 4 = false ∨ px < 8 ∧ s.ppu.mask.getLsbD 2 = false
  · rw [if_pos h, if_pos ((hidden_iff ..).mpr h)]
    rfl
  · rw [if_neg h, if_neg (mt (hidden_iff ..).mp h), findSome?_spriteAt]

theorem frontEntry_some {s : State} {px line : Nat} {i : BitVec 6} (h : frontEntry s px line = some i) :
    ¬ (s.ppu.mask.getLsbD 4 = false ∨ px < 8 ∧ s.ppu.mask.getLsbD 2 = false) ∧ i ∈ cachedSprites s.ppu ∧
      0 < spriteNumber s px line i.toNat := by
  unfold frontEntry at h
  split at h
  · cases h
  · next hshown => exact ⟨hshown, List.mem_of_find?_eq_some h, of_decide_eq_true (List.find?_some h :)⟩

end Sys2Proof.Machine
end

section
/-! SUPPORT. The colour and the sprite-zero hit in numbers (rules R306, R307). -/

namespace Sys2Proof.Machine

theorem spriteOf_toNat (s : State) (px line : Nat) (i : BitVec 6) :
    (spriteOf s px line i).value.toNat = spriteNumber s px line i.toNat ∧
    (spriteOf s px line i).pal.toNat = oamNumber s i.toNat 2 % 4 ∧
    ((spriteOf s px line i).behind = true ↔ ¬ oamNumber s i.toNat 2 / 32 % 2 = 0) := by
  refine ⟨(BitVec.toNat_ofNat ..).trans (Nat.mod_eq_of_lt (spriteNumber_lt ..)), BitVec.toNat_setWidth .., ?_⟩
  change (oamByte s.ppu i 2).getLsbD 5 = true ↔ _
  rw [getLsbD_eq_div, decide_eq_true_eq, oamByte_toNat]
  omega

theorem colourIndex_noSprite (bg pal : BitVec 2) :
    colourIndex bg pal noSprite = if bg = 0 then 0 else pal.toNat * 4 + bg.toNat := by
  unfold colourIndex
  by_cases h : bg = 0
  · rw [if_pos (by rw [h]; rfl), if_pos h]
  · rw [if_neg fun hc => h (of_decide_eq_true (Bool.and_eq_true_iff.mp hc).1)]
    exact (if_pos rfl).trans (if_neg h).symm

theorem colourIndex_sprite (bg pal : BitVec 2) {sp : SpritePixel} (hsp : sp.value ≠ 0) :
    colourIndex bg pal sp =
      if bg = 0 ∨ sp.behind = false then 0x10 + sp.pal.toNat * 4 + sp.value.toNat else pal.toNat * 4 + bg.toNat := by
  unfold colourIndex
  rw [if_neg fun hc => hsp (of_decide_eq_true (Bool.and_eq_true_iff.mp hc).2), if_neg hsp]
  by_cases h : bg = 0
  · rw [if_pos h, if_pos (.inl h)]
  · rw [if_neg h]
    cases sp.behind
    · exact (if_neg nofun).trans (if_pos (.inr rfl)).symm
    · exact (if_pos rfl).trans (if_neg (by rintro (hz | hz); exacts [h hz, nomatch hz])).symm

theorem backgroundValue_eq_zero_iff (s : State) (px : Nat) :
    (backgroundPixel s px).1 = 0 ↔ (backgroundNumbers s px).1 = 0 := by
  rw [← (backgroundPixel_toNat s px).1, ← BitVec.toNat_inj]
  rfl

theorem spriteOf_value_ne_zero {s : State} {px line : Nat} {i : BitVec 6} (h : 0 < spriteNumber s px line i.toNat) :
    (spriteOf s px line i).value ≠ 0 := by
  rw [ne_eq, ← BitVec.toNat_inj, (spriteOf_toNat s px line i).1]
  exact h.ne'

/-- The palette entry of rule R307. -/
theorem colourIndex_eq (s : State) (px line : Nat) :
    colourIndex (backgroundPixel s px).1 (backgroundPixel s px).2 (spritePixel s px line) = pixelEntry s px line := by
  obtain ⟨hbg, hpal⟩ := backgroundPixel_toNat s px
  have hback : (backgroundPixel s px).2.toNat * 4 + (backgroundPixel s px).1.toNat =
      4 * (backgroundNumbers s px).2 + (backgroundNumbers s px).1 := by rw [hbg, hpal, Nat.mul_comm]
  unfold pixelEntry
  rw [spritePixel_eq, frontSprite_eq]
  cases hfront : frontEntry s px line with
  | none =>
    refine (colourIndex_noSprite ..).trans ?_
    rw [hback, ite_cond_congr (propext (backgroundValue_eq_zero_iff s px))]
    rfl
  | some i =>
    obtain ⟨-, -, hpos⟩ := frontEntry_some hfront
    obtain ⟨hvalue, hspal, hbehind⟩ := spriteOf_toNat s px line i
    have hfront : (spriteOf s px line i).behind = false ↔ oamNumber s i.toNat 2 / 32 % 2 = 0 := by
      rw [← Bool.not_eq_true, hbehind, not_not]
    refine (colourIndex_sprite _ _ (spriteOf_value_ne_zero hpos)).trans ?_
    rw [hback, hvalue, hspal, ite_cond_congr (propext (or_congr (backgroundValue_eq_zero_iff s px) hfront)),
      Nat.mul_comm (oamNumber ..  % 4)]
    rfl

/-- The sprite-zero hit of rule R306. -/
theorem drawPixel_sprite0Hit (s : State) :
    (drawPixel s).ppu.sprite0Hit = true ↔ s.ppu.sprite0Hit = true ∨
      frontSprite s (s.ppu.cycle - 1) s.ppu.scanline = some 0 ∧ 0 < (backgroundNumbers s (s.ppu.cycle - 1)).1 ∧
        s.ppu.cycle - 1 ≠ 255 := by
  unfold drawPixel
  generalize s.ppu.cycle - 1 = px
  rw [frontSprite_eq, Bool.or_eq_true, spritePixel_eq]
  refine or_congr_right ?_
  cases hfront : frontEntry s px s.ppu.scanline with
  | none => simp [noSprite]
  | some i =>
    obtain ⟨-, -, hpos⟩ := frontEntry_some hfront
    have hzero : i = 0 ↔ i.toNat = 0 := BitVec.toNat_inj.symm
    have hvalue := spriteOf_value_ne_zero hpos
    simp only [Option.map_some, Option.getD_some, Option.some_inj, Bool.and_eq_true, bne_iff_ne, ne_eq,
      backgroundValue_eq_zero_iff, Nat.pos_iff_ne_zero]
    exact ⟨fun ⟨⟨⟨hz, hb⟩, _⟩, hc⟩ => ⟨hzero.mp (eq_of_beq hz), hb, hc⟩,
      fun ⟨hz, hb, hc⟩ => ⟨⟨⟨beq_of_eq (hzero.mpr hz), hb⟩, hvalue⟩, hc⟩⟩

/-- The pixel that dots 1 to 256 draw. -/
theorem pixelAt_drawPixel {s : State} (h : storeWf s.ppu.pixels = true) :
    readCell (drawPixel s).ppu.pixels (pixelIndex s.ppu.scanline (s.ppu.cycle - 1)) =
      readCell s.systemPalette
        ((readCell s.ppu.palette (pixelEntry s (s.ppu.cycle - 1) s.ppu.scanline)).toNat % 64) := by
  rw [← colourIndex_eq]
  exact (readCell_writeCell_same _ _ h).trans (congrArg (readCell s.systemPalette) (BitVec.toNat_setWidth ..))

/-- Dots 1 to 256 of a Render line draw; every other dot leaves the sprite-zero flag, but PreRender dot 1 clears it. -/
theorem clock_sprite0Hit {s : State} (hrun : s.halted = none) :
    (clock s).2.ppu.sprite0Hit =
      if s.ppu.renderState = .render ∧ 1 ≤ s.ppu.cycle ∧ s.ppu.cycle ≤ 256 then (drawPixel s).ppu.sprite0Hit
      else if s.ppu.renderState = .preRender ∧ s.ppu.cycle = 1 then false
      else s.ppu.sprite0Hit := by
  have hother : ∀ {r q : RenderState} {P : Prop}, s.ppu.renderState = r → r ≠ q → ¬ (s.ppu.renderState = q ∧ P) :=
    fun hr hne h => hne (hr.symm.trans h.1)
  rcases dot_kinds s with ⟨-, hr⟩ | ⟨-, hr⟩ | ⟨-, hr⟩ | hquiet
  · rw [(clock_render hrun hr).2, advance_sprite0Hit, renderDot_sprite0Hit, if_neg (hother (q := .preRender) hr nofun)]
    simp only [hr, true_and]
  · rw [(clock_preRender hrun hr).2, advance_sprite0Hit, (preRenderDot_flags s).2.1,
      if_neg (hother (q := .render) hr nofun)]
    simp only [hr, true_and]
  · rw [(clock_vblank hrun hr).2, advance_sprite0Hit, if_neg (hother (q := .render) hr nofun),
      if_neg (hother (q := .preRender) hr nofun), vblankDot_rest]
  · have hsame : (clock s).2.ppu.sprite0Hit = s.ppu.sprite0Hit := by
      rcases (clock_quiet hquiet).2 with h | h <;> rw [h]
      exact advance_sprite0Hit ..
    rcases (hquiet.resolve_left (by simp [hrun])) with hr | hr <;>
      rw [hsame, if_neg (hother (q := .render) hr nofun), if_neg (hother (q := .preRender) hr nofun)]

/-- The pixel of a drawing dot. -/
theorem pixelAt_clock {s : State} (hdraw : DrawDot s) (h : storeWf s.ppu.pixels = true) :
    pixelAt (clock s).2 s.ppu.scanline (s.ppu.cycle - 1) =
      readCell s.systemPalette
        ((readCell s.ppu.palette (pixelEntry s (s.ppu.cycle - 1) s.ppu.scanline)).toNat % 64) := by
  have hpixels := ((clock_pixels s).resolve_right fun hno => hno.1 hdraw).2
  rw [pixelAt, hpixels, pixelAt_drawPixel h]

/-- What shows needs its layers on. -/
theorem backgroundNumbers_pos {s : State} {px : Nat} (h : 0 < (backgroundNumbers s px).1) :
    s.ppu.mask.getLsbD 3 = true ∧ (px < 8 → s.ppu.mask.getLsbD 1 = true) := by
  have hshown : ¬ (s.ppu.mask.getLsbD 3 = false ∨ px < 8 ∧ s.ppu.mask.getLsbD 1 = false) := fun hoff => by
    have hzero : backgroundNumbers s px = (0, 0) := if_pos hoff
    rw [hzero] at h
    exact Nat.lt_irrefl 0 h
  simpa using hshown

theorem frontSprite_zero {s : State} {px line : Nat} (h : frontSprite s px line = some 0) :
    s.ppu.mask.getLsbD 4 = true ∧ (px < 8 → s.ppu.mask.getLsbD 2 = true) ∧ 0 ∈ cachedSprites s.ppu := by
  rw [frontSprite_eq, Option.map_eq_some_iff] at h
  obtain ⟨i, hi, hzero⟩ := h
  obtain ⟨hshown, hmem, -⟩ := frontEntry_some hi
  rw [show i = 0 from BitVec.eq_of_toNat_eq hzero] at hmem
  obtain ⟨hon, hleft⟩ : s.ppu.mask.getLsbD 4 = true ∧ (px < 8 → s.ppu.mask.getLsbD 2 = true) := by
    simpa using hshown
  exact ⟨hon, hleft, hmem⟩

/-- With both layers off the pixel is the backdrop's. -/
theorem pixelEntry_off {s : State} {px line : Nat} (hb : s.ppu.mask.getLsbD 3 = false)
    (hs : s.ppu.mask.getLsbD 4 = false) : pixelEntry s px line = 0 := by
  have hfront : frontSprite s px line = none := if_pos (.inl hs)
  have hback : backgroundNumbers s px = (0, 0) := if_pos (.inl hb)
  rw [pixelEntry, hfront, hback]
  rfl

end Sys2Proof.Machine
end

section
/-! The sprite-zero hit and the pixel, O51. -/

section

open Sys2Proof Sys2Proof.Machine

/-- Settles O51: the flag by `clock_sprite0Hit` and `drawPixel_sprite0Hit`, the pixel by `pixelAt_clock`. -/
theorem spriteZeroAndBackdrop : Obligations.SpriteZeroAndBackdrop := by
  unfold Obligations.SpriteZeroAndBackdrop
  intro s hrun t
  refine ⟨fun hclear hset => ?_, fun hset hkeep => ?_, fun hr h1 h256 hb hs hwf => ?_,
    fun hr h1 h256 => ⟨?_, fun hwf => ?_⟩⟩
  · rw [show t.ppu.sprite0Hit = _ from clock_sprite0Hit hrun] at hset
    split at hset
    · next hdraw =>
      obtain ⟨hr, h1, h256⟩ := hdraw
      have hhit := (drawPixel_sprite0Hit s).mp hset
      rw [hclear] at hhit
      obtain ⟨hfront, hback, hlast⟩ := hhit.resolve_left nofun
      obtain ⟨hb, hbleft⟩ := backgroundNumbers_pos hback
      obtain ⟨hs, hsleft, hmem⟩ := frontSprite_zero hfront
      exact ⟨hr, h1, by omega, hb, hs, fun h8 => ⟨hbleft (by omega), hsleft (by omega)⟩, hmem⟩
    · split at hset
      · cases hset
      · rw [hclear] at hset
        cases hset
  · rw [show t.ppu.sprite0Hit = _ from clock_sprite0Hit hrun, if_neg hkeep]
    split
    · exact (drawPixel_sprite0Hit s).mpr (.inl hset)
    · exact hset
  · rw [show pixelAt t _ _ = _ from pixelAt_clock ⟨hrun, hr, h1, h256⟩ hwf, pixelEntry_off hb hs]
  · rw [show t.ppu.sprite0Hit = _ from clock_sprite0Hit hrun, if_pos ⟨hr, h1, h256⟩]
    exact drawPixel_sprite0Hit s
  · exact pixelAt_clock ⟨hrun, hr, h1, h256⟩ hwf

end
end

section
/-! SUPPORT. The bank windows as wholes (rules R346, R347, R365): what each composed bank setter leaves in `prgOff`
and `chrOff`. -/

namespace Sys2Proof.Machine

/-- A vector written slot by slot from 0 up holds what was written. -/
theorem set_four {α : Type} (v : Vector α 4) (a b c d : α) :
    (((v.set 0 a).set 1 b).set 2 c).set 3 d = #v[a, b, c, d] := by
  ext i hi
  simp only [Vector.getElem_set]
  interval_cases i <;> rfl

theorem set_low {α : Type} (v : Vector α 4) (a b : α) : (v.set 0 a).set 1 b = #v[a, b, v[2], v[3]] := by
  ext i hi
  simp only [Vector.getElem_set]
  interval_cases i <;> rfl

theorem set_eight {α : Type} (v : Vector α 8) (a b c d e f g h : α) :
    (((((((v.set 0 a).set 1 b).set 2 c).set 3 d).set 4 e).set 5 f).set 6 g).set 7 h = #v[a, b, c, d, e, f, g, h] := by
  ext i hi
  simp only [Vector.getElem_set]
  interval_cases i <;> rfl

theorem prgBankOffset_eq (c : Cart) (b : Int) :
    prgBankOffset c b = (b % ((2 * c.prgUnits : Nat) : Int)).toNat * 8192 := by
  unfold prgBankOffset prgSize
  rw [show c.prgUnits * 16384 / 8192 = 2 * c.prgUnits by omega]

theorem prgBankOffset_nat (c : Cart) (b : Nat) : prgBankOffset c b = b % (2 * c.prgUnits) * 8192 := by
  rw [prgBankOffset_eq, ← Int.natCast_mod, Int.toNat_natCast]

/-- A bank number counted from the last bank. -/
theorem prgBankOffset_last {c : Cart} {k : Nat} (hk : k ≤ 2 * c.prgUnits) :
    prgBankOffset c (-k) = (2 * c.prgUnits - k) % (2 * c.prgUnits) * 8192 := by
  rw [prgBankOffset_eq, ← Int.add_emod_right,
    show -(k : Int) + (2 * c.prgUnits : Nat) = (2 * c.prgUnits - k : Nat) by omega,
    ← Int.natCast_mod, Int.toNat_natCast]

theorem chrBankOffset_eq (c : Cart) (b : Nat) : chrBankOffset c b = b % (8 * max c.chrUnits 1) * 1024 := by
  unfold chrBankOffset chrSize
  rw [show max c.chrUnits 1 * 8192 / 1024 = 8 * max c.chrUnits 1 by omega]

theorem setPrg16_low (b : Int) (c : Cart) :
    setPrg16 0 b c =
      { c with prgOff := #v[prgBankOffset c (2 * b), prgBankOffset c (2 * b + 1), c.prgOff[2], c.prgOff[3]] } :=
  congrArg (fun w => { c with prgOff := w }) (set_low ..)

theorem setPrg16_low_nat (b : Nat) (c : Cart) :
    setPrg16 0 b c = { c with prgOff := #v[2 * b % (2 * c.prgUnits) * 8192, (2 * b + 1) % (2 * c.prgUnits) * 8192,
      c.prgOff[2], c.prgOff[3]] } := by
  rw [setPrg16_low, ← prgBankOffset_nat, ← prgBankOffset_nat]
  push_cast
  rfl

theorem setPrg16_both (a b : Int) (c : Cart) :
    setPrg16 1 b (setPrg16 0 a c) =
      { c with prgOff := #v[prgBankOffset c (2 * a), prgBankOffset c (2 * a + 1), prgBankOffset c (2 * b),
        prgBankOffset c (2 * b + 1)] } :=
  congrArg (fun w => { c with prgOff := w }) (set_four ..)

/-- The windows of 32 KiB bank `b`. -/
def prgWindow32 (c : Cart) (b : Nat) : Vector Nat 4 :=
  Vector.ofFn fun k => (4 * b + k.val) % (2 * c.prgUnits) * 8192

theorem setPrg32_eq (b : Nat) (c : Cart) : setPrg32 b c = { c with prgOff := prgWindow32 c b } := by
  rw [setPrg32, setPrg16_both]
  refine congrArg (fun w => { c with prgOff := w }) (Vector.ext fun i hi => ?_)
  rw [prgWindow32, Vector.getElem_ofFn, ← prgBankOffset_nat]
  interval_cases i
  all_goals refine congrArg (prgBankOffset c) ?_
  all_goals push_cast; ring

/-- A CHR slot of a cartridge with windows `w`. -/
theorem setChr1_with (slot : Fin 8) (b : Nat) (c : Cart) (w : Vector Nat 8) :
    setChr1 slot b { c with chrOff := w } = { c with chrOff := w.set slot (chrBankOffset c b) } := rfl

theorem setChr2_with (pair : Fin 4) (b : Nat) (c : Cart) (w : Vector Nat 8) :
    setChr2 pair b { c with chrOff := w } = { c with
      chrOff := (w.set (2 * pair.val) (chrBankOffset c (b / 2 * 2))).set (2 * pair.val + 1)
        (chrBankOffset c (b / 2 * 2 + 1)) } := rfl

theorem setChr4_with (half : Fin 2) (b : Nat) (c : Cart) (w : Vector Nat 8) :
    setChr4 half b { c with chrOff := w } = { c with
      chrOff := (((w.set (4 * half.val) (chrBankOffset c (4 * b))).set (4 * half.val + 1)
        (chrBankOffset c (4 * b + 1))).set (4 * half.val + 2) (chrBankOffset c (4 * b + 2))).set (4 * half.val + 3)
        (chrBankOffset c (4 * b + 3)) } := by
  rw [setChr4, setChr2_with, setChr2_with]
  have h1 : 4 * b / 2 * 2 = 4 * b := by omega
  have h2 : (4 * b + 2) / 2 * 2 = 4 * b + 2 := by omega
  rw [h1, h2]
  fin_cases half <;> rfl

theorem setChr4_both (a b : Nat) (c : Cart) :
    setChr4 1 b (setChr4 0 a c) =
      { c with chrOff := Vector.ofFn fun k =>
        chrBankOffset c (if k.val < 4 then 4 * a + k.val else 4 * b + (k.val - 4)) } := by
  rw [setChr4_with, setChr4_with]
  refine congrArg (fun w => { c with chrOff := w }) ((set_eight c.chrOff ..).trans (Vector.ext fun i hi => ?_))
  rw [Vector.getElem_ofFn]
  interval_cases i <;> rfl

/-- The windows of 8 KiB bank `b`. -/
def chrWindow8 (c : Cart) (b : Nat) : Vector Nat 8 :=
  Vector.ofFn fun k => (8 * b + k.val) % (8 * max c.chrUnits 1) * 1024

theorem setChr8_eq (b : Nat) (c : Cart) : setChr8 b c = { c with chrOff := chrWindow8 c b } := by
  rw [setChr8, setChr4_both]
  refine congrArg (fun w => { c with chrOff := w }) (congrArg Vector.ofFn (funext fun k => ?_))
  rw [← chrBankOffset_eq]
  refine congrArg (chrBankOffset c) ?_
  split <;> omega

/-- The windows of mapper 004 before the bank numbers are reduced. -/
def prgBanks004 (c : Cart) (r : Mapper004) : Vector Nat 4 :=
  let last := 2 * c.prgUnits - 1
  if r.bankSelect.getLsbD 6 then #v[last - 1, r.bankReg[7].toNat, r.bankReg[6].toNat, last]
  else #v[r.bankReg[6].toNat, r.bankReg[7].toNat, last - 1, last]

def chrBanks004 (r : Mapper004) : Vector Nat 8 :=
  #v[r.bankReg[0].toNat / 2 * 2, r.bankReg[0].toNat / 2 * 2 + 1, r.bankReg[1].toNat / 2 * 2,
    r.bankReg[1].toNat / 2 * 2 + 1, r.bankReg[2].toNat, r.bankReg[3].toNat, r.bankReg[4].toNat, r.bankReg[5].toNat]

def inversion004 (r : Mapper004) : Fin 8 := if r.bankSelect.getLsbD 7 then 4 else 0

theorem setPrg8_four (b0 b1 b2 b3 : Int) (c : Cart) :
    setPrg8 3 b3 (setPrg8 2 b2 (setPrg8 1 b1 (setPrg8 0 b0 c))) =
      { c with prgOff := #v[prgBankOffset c b0, prgBankOffset c b1, prgBankOffset c b2, prgBankOffset c b3] } :=
  congrArg (fun w => { c with prgOff := w }) (set_four ..)

/-- The PRG half of `UpdateBanks()`. -/
def updatePrg004 (r : Mapper004) (c : Cart) : Cart :=
  if r.bankSelect.getLsbD 6 then
    setPrg8 3 (-1) (setPrg8 2 r.bankReg[6].toNat (setPrg8 1 r.bankReg[7].toNat (setPrg8 0 (-2) c)))
  else setPrg8 3 (-1) (setPrg8 2 (-2) (setPrg8 1 r.bankReg[7].toNat (setPrg8 0 r.bankReg[6].toNat c)))

theorem updatePrg004_eq {c : Cart} (r : Mapper004) (h : 0 < c.prgUnits) :
    updatePrg004 r c =
      { c with prgOff := Vector.ofFn fun k => (prgBanks004 c r)[k] % (2 * c.prgUnits) * 8192 } := by
  have h1 : prgBankOffset c (-1) = (2 * c.prgUnits - 1) % (2 * c.prgUnits) * 8192 := prgBankOffset_last (k := 1) (by omega)
  have h2 : prgBankOffset c (-2) = (2 * c.prgUnits - 1 - 1) % (2 * c.prgUnits) * 8192 :=
    prgBankOffset_last (k := 2) (by omega)
  unfold updatePrg004 prgBanks004
  cases r.bankSelect.getLsbD 6
  all_goals
    refine (setPrg8_four ..).trans (congrArg (fun w => { c with prgOff := w }) (Vector.ext fun i hi => ?_))
    rw [Vector.getElem_ofFn, h1, h2, prgBankOffset_nat, prgBankOffset_nat]
    interval_cases i <;> rfl

theorem setChr_upright (a b : Nat) (d e f g : Nat) (c : Cart) :
    setChr1 7 g (setChr1 6 f (setChr1 5 e (setChr1 4 d (setChr2 1 b (setChr2 0 a c))))) = { c with
      chrOff := #v[chrBankOffset c (a / 2 * 2), chrBankOffset c (a / 2 * 2 + 1), chrBankOffset c (b / 2 * 2),
        chrBankOffset c (b / 2 * 2 + 1), chrBankOffset c d, chrBankOffset c e, chrBankOffset c f,
        chrBankOffset c g] } := by
  rw [setChr2_with, setChr2_with, setChr1_with, setChr1_with, setChr1_with, setChr1_with]
  exact congrArg (fun w => { c with chrOff := w }) (set_eight c.chrOff ..)

theorem setChr_inverted (a b : Nat) (d e f g : Nat) (c : Cart) :
    setChr2 3 b (setChr2 2 a (setChr1 3 g (setChr1 2 f (setChr1 1 e (setChr1 0 d c))))) = { c with
      chrOff := #v[chrBankOffset c d, chrBankOffset c e, chrBankOffset c f, chrBankOffset c g,
        chrBankOffset c (a / 2 * 2), chrBankOffset c (a / 2 * 2 + 1), chrBankOffset c (b / 2 * 2),
        chrBankOffset c (b / 2 * 2 + 1)] } := by
  rw [setChr1_with, setChr1_with, setChr1_with, setChr1_with, setChr2_with, setChr2_with]
  exact congrArg (fun w => { c with chrOff := w }) (set_eight c.chrOff ..)

/-- The CHR half of `UpdateBanks()`. -/
def updateChr004 (r : Mapper004) (c : Cart) : Cart :=
  if r.bankSelect.getLsbD 7 then
    setChr2 3 r.bankReg[1].toNat (setChr2 2 r.bankReg[0].toNat (setChr1 3 r.bankReg[5].toNat
      (setChr1 2 r.bankReg[4].toNat (setChr1 1 r.bankReg[3].toNat (setChr1 0 r.bankReg[2].toNat c)))))
  else
    setChr1 7 r.bankReg[5].toNat (setChr1 6 r.bankReg[4].toNat (setChr1 5 r.bankReg[3].toNat
      (setChr1 4 r.bankReg[2].toNat (setChr2 1 r.bankReg[1].toNat (setChr2 0 r.bankReg[0].toNat c)))))

/-- The bank of slot `k`, by the inversion bit. -/
def chrSlot004 (r : Mapper004) (k : Fin 8) : Nat := (chrBanks004 r)[k + inversion004 r]

theorem chrSlot004_eq (r : Mapper004) (k : Fin 8) :
    chrSlot004 r k = if r.bankSelect.getLsbD 7 then (chrBanks004 r)[k + 4] else (chrBanks004 r)[k] := by
  by_cases h : r.bankSelect.getLsbD 7 = true
  · exact (congrArg (fun j => (chrBanks004 r)[k + j]) (if_pos h)).trans (if_pos h).symm
  · have hzero : (chrBanks004 r)[k + 0] = (chrBanks004 r)[k] := congrArg (fun j => (chrBanks004 r)[j]) (add_zero k)
    exact (congrArg (fun j => (chrBanks004 r)[k + j]) (if_neg h)).trans (hzero.trans (if_neg h).symm)

theorem updateChr004_eq (r : Mapper004) (c : Cart) :
    updateChr004 r c = { c with
      chrOff := Vector.ofFn fun k => chrSlot004 r k % (8 * max c.chrUnits 1) * 1024 } := by
  simp only [← chrBankOffset_eq, chrSlot004_eq]
  by_cases h : r.bankSelect.getLsbD 7 = true
  · rw [updateChr004, if_pos h, setChr_inverted]
    simp only [h]
    refine congrArg (fun w => { c with chrOff := w }) (Vector.ext fun i hi => ?_)
    rw [Vector.getElem_ofFn]
    interval_cases i <;> rfl
  · rw [updateChr004, if_neg h, setChr_upright]
    simp only [h]
    refine congrArg (fun w => { c with chrOff := w }) (Vector.ext fun i hi => ?_)
    rw [Vector.getElem_ofFn]
    interval_cases i <;> rfl

theorem updateBanks004_eq {c : Cart} (r : Mapper004) (h : 0 < c.prgUnits) :
    updateBanks004 r c = { c with
      prgOff := Vector.ofFn fun k => (prgBanks004 c r)[k] % (2 * c.prgUnits) * 8192
      chrOff := Vector.ofFn fun k => chrSlot004 r k % (8 * max c.chrUnits 1) * 1024 } := by
  have halves : updateBanks004 r c = updateChr004 r (updatePrg004 r c) := rfl
  rw [halves, updatePrg004_eq r h, updateChr004_eq]

/-- The region of a mapper-register address. -/
theorem regionOf_eq {a : Word} (k : BitVec 2) : a.extractLsb' 13 2 = k ↔ a.toNat / 0x2000 % 4 = k.toNat := by
  rw [← BitVec.toNat_inj, field_toNat]
  rfl

theorem maskLow_toNat {w : Nat} (v : BitVec w) (k : Nat) (m : BitVec w) (hm : m.toNat = 2 ^ k - 1) :
    (v &&& m).toNat = v.toNat % 2 ^ k := by
  rw [BitVec.toNat_and, hm, Nat.and_two_pow_sub_one_eq_mod]

theorem highDigit (v : Byte) : (v >>> 4).toNat = v.toNat / 16 :=
  (BitVec.toNat_ushiftRight ..).trans (Nat.shiftRight_eq_div_pow ..)

theorem setMirroring_single (b : Bool) (c : Cart) :
    setMirroring (if b then .singleUpper else .singleLower) c = { c with
      mirroring := if b then .singleUpper else .singleLower
      ntOffset := if b then #v[0x400, 0x400, 0x400, 0x400] else #v[0, 0, 0, 0] } := by
  cases b <;> rfl

/-- A mapper-register write of mapper 004, by range of the address. -/
theorem write004_bank {a : Word} {c : Cart} (v : Byte) (r : Mapper004) (h1 : 0x8000 ≤ a.toNat) (h2 : a.toNat < 0xA000) :
    write004 a v r c =
      let r' := if a.getLsbD 0 then { r with bankReg := r.bankReg.set (r.bankSelect.extractLsb' 0 3).toFin v }
        else { r with bankSelect := v }
      updateBanks004 r' { c with mapper := .m004 r' } :=
  if_pos ((regionOf_eq 0).mpr (by change _ = 0; omega))

theorem write004_mirroring {a : Word} {c : Cart} (v : Byte) (r : Mapper004)
    (h1 : 0xA000 ≤ a.toNat) (h2 : a.toNat < 0xC000) :
    write004 a v r c =
      if a.getLsbD 0 then c else setMirroring (if v.getLsbD 0 then .horizontal else .vertical) c := by
  have h : a.toNat / 0x2000 % 4 = 1 := by omega
  exact (if_neg (mt (regionOf_eq 0).mp (by rw [h]; decide))).trans (if_pos ((regionOf_eq 1).mpr h))

theorem write004_latch {a : Word} {c : Cart} (v : Byte) (r : Mapper004) (h1 : 0xC000 ≤ a.toNat) (h2 : a.toNat < 0xE000) :
    write004 a v r c =
      { c with mapper := .m004 (if a.getLsbD 0 then { r with irqReload := true } else { r with irqLatch := v }) } := by
  have h : a.toNat / 0x2000 % 4 = 2 := by omega
  exact (if_neg (mt (regionOf_eq 0).mp (by rw [h]; decide))).trans
    ((if_neg (mt (regionOf_eq 1).mp (by rw [h]; decide))).trans (if_pos ((regionOf_eq 2).mpr h)))

theorem write004_enable {a : Word} {c : Cart} (v : Byte) (r : Mapper004) (h1 : 0xE000 ≤ a.toNat) :
    write004 a v r c = { c with mapper := .m004 { r with irqEnable := a.getLsbD 0 } } := by
  have h : a.toNat / 0x2000 % 4 = 3 := by omega
  exact (if_neg (mt (regionOf_eq 0).mp (by rw [h]; decide))).trans
    ((if_neg (mt (regionOf_eq 1).mp (by rw [h]; decide))).trans (if_neg (mt (regionOf_eq 2).mp (by rw [h]; decide))))

end Sys2Proof.Machine
end

section
/-! Bank register writes, O53. -/

section

open Sys2Proof Sys2Proof.Machine

/-- Settles O53: the windows are those of `setPrg32_eq`, `setChr8_eq` and `updateBanks004_eq`, the ranges of mapper 004
those of the lemmas `write004_*`. -/
theorem bankRegisterWrites : Obligations.BankRegisterWrites := by
  unfold Obligations.BankRegisterWrites
  intro a v l c hunits n prg32 chr8
  have hodd : a.getLsbD 0 = decide (a.toNat % 2 = 1) := by rw [getLsbD_eq_div, Nat.pow_zero, Nat.div_one]
  refine ⟨fun h => ?_, fun h => ?_, fun h => ?_, fun h => ?_, fun h => ?_, fun h => ?_, fun r h => ?_⟩
  · rw [mapperWrite, h]
  · rw [mapperWrite, h]
    exact setPrg16_low_nat n { c with mapper := .m002 v }
  · rw [mapperWrite, h]
    exact setChr8_eq n { c with mapper := .m003 v }
  · rw [mapperWrite, h]
    have hbank : (v &&& 0x07).toNat = n % 8 := maskLow_toNat v 3 _ rfl
    dsimp only
    rw [hbank, setPrg32_eq, setMirroring_single]
    rfl
  · rw [mapperWrite, h]
    have hbank : (v &&& 0x03).toNat = n % 4 := maskLow_toNat v 2 _ rfl
    have hchr : (v >>> 4).toNat = n / 16 := highDigit v
    dsimp only
    rw [hbank, hchr, setPrg32_eq, setChr8_eq]
    rfl
  · rw [mapperWrite, h]
    have hbank : ((v >>> 4) &&& 0x03).toNat = n / 16 % 4 :=
      (maskLow_toNat _ 2 _ rfl).trans (congrArg (· % 4) (highDigit v))
    have hchr : (v &&& 0x03).toNat = n % 4 := maskLow_toNat v 2 _ rfl
    dsimp only
    rw [hbank, hchr, setPrg32_eq, setChr8_eq]
    rfl
  · intro odd
    have hwrite : mapperWrite a v c = write004 a v r c := by rw [mapperWrite, h]
    rw [hwrite]
    refine ⟨fun h1 h2 => ?_, fun h1 h2 => ?_, fun h1 h2 => ?_, fun h1 => ?_⟩
    · rw [write004_bank v r h1 h2, hodd]
      exact updateBanks004_eq _ hunits
    · rw [write004_mirroring v r h1 h2, hodd]
      cases v.getLsbD 0 <;> rfl
    · rw [write004_latch v r h1 h2, hodd]
    · rw [write004_enable v r h1, hodd]

end
end

section
/-! SUPPORT. The serial port of mapper 001 (rules R351 to R355). -/

namespace Sys2Proof.Machine

/-- The windows of two 16 KiB banks. -/
def prgWindow16 (c : Cart) (low high : Nat) : Vector Nat 4 :=
  let l := low % c.prgUnits * 16384
  let h := high % c.prgUnits * 16384
  #v[l, l + 8192, h, h + 8192]

theorem prgBankOffset_even (c : Cart) (b : Nat) : prgBankOffset c (2 * (b : Int)) = b % c.prgUnits * 16384 := by
  have h : prgBankOffset c (2 * (b : Int)) = _ := prgBankOffset_nat c (2 * b)
  rw [h, Nat.mul_mod_mul_left]
  omega

theorem prgBankOffset_odd (c : Cart) (b : Nat) :
    prgBankOffset c (2 * (b : Int) + 1) = b % c.prgUnits * 16384 + 8192 := by
  have hoff : prgBankOffset c (2 * (b : Int) + 1) = _ := prgBankOffset_nat c (2 * b + 1)
  have hmod : (2 * b + 1) % (2 * c.prgUnits) = 2 * (b % c.prgUnits) + 1 := by
    rw [Nat.mod_mul, show (2 * b + 1) % 2 = 1 by omega, show (2 * b + 1) / 2 = b by omega, Nat.add_comm]
  rw [hoff, hmod]
  omega

theorem setPrg16_windows (c : Cart) (low high : Nat) :
    setPrg16 1 high (setPrg16 0 low c) = { c with prgOff := prgWindow16 c low high } := by
  rw [setPrg16_both, prgBankOffset_even, prgBankOffset_even, prgBankOffset_odd, prgBankOffset_odd]
  rfl

theorem setPrg16_last {c : Cart} (low : Nat) (h : 0 < c.prgUnits) :
    setPrg16 1 (-1) (setPrg16 0 low c) = { c with prgOff := prgWindow16 c low (c.prgUnits - 1) } := by
  have h1 : prgBankOffset c (2 * -1) = prgBankOffset c (2 * ((c.prgUnits - 1 : Nat) : Int)) := by
    rw [prgBankOffset_even]
    refine (prgBankOffset_last (c := c) (k := 2) (by omega)).trans ?_
    rw [Nat.mod_eq_of_lt (by omega), Nat.mod_eq_of_lt (by omega)]
    omega
  have h2 : prgBankOffset c (2 * -1 + 1) = prgBankOffset c (2 * ((c.prgUnits - 1 : Nat) : Int) + 1) := by
    rw [prgBankOffset_odd]
    refine (prgBankOffset_last (c := c) (k := 1) (by omega)).trans ?_
    rw [Nat.mod_eq_of_lt (by omega), Nat.mod_eq_of_lt (by omega)]
    omega
  rw [← setPrg16_windows, setPrg16_both, setPrg16_both, h1, h2]

/-- The PRG windows of mapper 001 (rule R354). -/
def prgWindow001 (c : Cart) (q : Mapper001) : Vector Nat 4 :=
  let b := q.prgBank.toNat % 16
  let mode := q.control.toNat / 4 % 4
  if mode = 2 then prgWindow16 c 0 b else if mode = 3 then prgWindow16 c b (c.prgUnits - 1)
  else prgWindow16 c (b / 2 * 2) (b / 2 * 2 + 1)

/-- The bank numbers of a five-bit register. -/
theorem bankFields (b : BitVec 5) :
    (b &&& 0x0F).toNat = b.toNat % 16 ∧ (b &&& 0x0E).toNat = b.toNat % 16 / 2 * 2 ∧
    (b &&& 0x1E).toNat = 2 * (b.toNat / 2) := by
  revert b
  decide

theorem setPrgBanks001_eq {c : Cart} (q : Mapper001) (h : 0 < c.prgUnits) :
    setPrgBanks001 q c = { c with prgOff := prgWindow001 c q } := by
  obtain ⟨hbank, heven, -⟩ := bankFields q.prgBank
  have hmode : ∀ k : BitVec 2, q.control.extractLsb' 2 2 = k ↔ q.control.toNat / 4 % 4 = k.toNat := fun k => by
    rw [← BitVec.toNat_inj, field_toNat]
    rfl
  unfold setPrgBanks001 prgWindow001
  rw [hbank, heven]
  dsimp only
  by_cases h2 : q.control.toNat / 4 % 4 = 2
  · rw [if_pos ((hmode 2).mpr h2), if_pos h2]
    exact setPrg16_windows c 0 _
  · rw [if_neg (mt (hmode 2).mp h2), if_neg h2]
    by_cases h3 : q.control.toNat / 4 % 4 = 3
    · rw [if_pos ((hmode 3).mpr h3), if_pos h3]
      exact setPrg16_last _ h
    · rw [if_neg (mt (hmode 3).mp h3), if_neg h3]
      exact setPrg16_windows c _ (_ + 1)

/-- The CHR windows of mapper 001 (rule R355). -/
def chrWindow001 (c : Cart) (q : Mapper001) : Vector Nat 8 :=
  Vector.ofFn fun k =>
    (if q.control.getLsbD 4 = false then 8 * (q.chrBank0.toNat / 2) + k.val
      else if k.val < 4 then 4 * q.chrBank0.toNat + k.val else 4 * q.chrBank1.toNat + (k.val - 4)) %
    (8 * max c.chrUnits 1) * 1024

theorem setChrBanks001_eq (q : Mapper001) (c : Cart) :
    setChrBanks001 q c = { c with chrOff := chrWindow001 c q } := by
  unfold setChrBanks001 chrWindow001
  simp only [← chrBankOffset_eq]
  by_cases h : q.control.getLsbD 4 = true
  · rw [if_pos h, setChr4_both]
    simp only [h, Bool.true_eq_false, if_false]
  · rw [if_neg h, (bankFields q.chrBank0).2.2, setChr4_both]
    refine congrArg (fun w => { c with chrOff := w }) (congrArg Vector.ofFn (funext fun k => congrArg (chrBankOffset c) ?_))
    rw [if_pos (Bool.eq_false_iff.mpr h)]
    split <;> omega

/-- The shift register after a serial write of bit 0 of `v`. -/
def serialWrite (r : Mapper001) (v : Byte) : Mapper001 :=
  { r with
    shift := r.shift ||| ((if v.getLsbD 0 then 1 else 0 : BitVec 5) <<< r.shiftCount)
    shiftCount := r.shiftCount + 1 }

/-- A write that does not fill the shift register. -/
theorem mapperWrite_shift {c : Cart} {r : Mapper001} {v : Byte} (a : Word) (hm : c.mapper = .m001 r)
    (hv : v.getLsbD 7 = false) (hcount : r.shiftCount + 1 ≠ 5) :
    mapperWrite a v c = { c with mapper := .m001 (serialWrite r v) } := by
  rw [mapperWrite, hm]
  exact (if_neg (by rw [hv]; nofun)).trans (if_neg hcount)

/-- The write that fills it. -/
theorem mapperWrite_fifth {c : Cart} {r : Mapper001} {v : Byte} (a : Word) (hm : c.mapper = .m001 r)
    (hv : v.getLsbD 7 = false) (hcount : r.shiftCount + 1 = 5) :
    mapperWrite a v c = apply001 a (serialWrite r v) c := by
  rw [mapperWrite, hm]
  exact (if_neg (by rw [hv]; nofun)).trans (if_pos hcount)

theorem mapperWrite_clear {c : Cart} {r : Mapper001} {v : Byte} (a : Word) (hm : c.mapper = .m001 r)
    (hv : v.getLsbD 7 = true) :
    mapperWrite a v c = { c with mapper := .m001 { r with shift := 0, shiftCount := 0 } } := by
  rw [mapperWrite, hm]
  exact if_pos hv

/-- Five bits shifted in, lowest first. -/
theorem bitsShiftedIn (n : BitVec 5) :
    ((0 : BitVec 5) ||| ((if n.getLsbD 0 then 1 else 0 : BitVec 5) <<< 0) |||
      ((if n.getLsbD 1 then 1 else 0 : BitVec 5) <<< 1) ||| ((if n.getLsbD 2 then 1 else 0 : BitVec 5) <<< 2) |||
      ((if n.getLsbD 3 then 1 else 0 : BitVec 5) <<< 3) ||| ((if n.getLsbD 4 then 1 else 0 : BitVec 5) <<< 4)) = n := by
  revert n
  decide

/-- Five serial writes apply their bits at the fifth address. -/
theorem mapperWrite_five {c : Cart} {r : Mapper001} (a0 a1 a2 a3 a4 : Word) {v0 v1 v2 v3 v4 : Byte} {n : BitVec 5}
    (hm : c.mapper = .m001 r) (hshift : r.shift = 0) (hcount : r.shiftCount = 0)
    (hclear : [v0, v1, v2, v3, v4].map (fun v => v.getLsbD 7) = [false, false, false, false, false])
    (hbits : [v0, v1, v2, v3, v4].map (fun v => v.getLsbD 0) = (List.range 5).map n.getLsbD) :
    ∃ m : Mapper,
      mapperWrite a4 v4 (mapperWrite a3 v3 (mapperWrite a2 v2 (mapperWrite a1 v1 (mapperWrite a0 v0 c)))) =
        apply001 a4 { r with shift := n, shiftCount := 5 } { c with mapper := m } := by
  obtain ⟨c0, c1, c2, c3, c4⟩ : v0.getLsbD 7 = false ∧ v1.getLsbD 7 = false ∧ v2.getLsbD 7 = false ∧
    v3.getLsbD 7 = false ∧ v4.getLsbD 7 = false := by simpa using hclear
  obtain ⟨b0, b1, b2, b3, b4⟩ : v0.getLsbD 0 = n.getLsbD 0 ∧ v1.getLsbD 0 = n.getLsbD 1 ∧
    v2.getLsbD 0 = n.getLsbD 2 ∧ v3.getLsbD 0 = n.getLsbD 3 ∧ v4.getLsbD 0 = n.getLsbD 4 := by
    simpa only [List.map_cons, List.map_nil, List.range_succ, List.range_zero, List.nil_append,
      List.cons_append, List.cons.injEq, and_true] using hbits
  have hfull : serialWrite (serialWrite (serialWrite (serialWrite (serialWrite r v0) v1) v2) v3) v4 =
      { r with shift := n, shiftCount := 5 } := by
    unfold serialWrite
    dsimp only
    rw [hshift, hcount, b0, b1, b2, b3, b4]
    exact congrArg (fun u => { r with shift := u, shiftCount := 5 }) (bitsShiftedIn n)
  refine ⟨.m001 (serialWrite (serialWrite (serialWrite (serialWrite r v0) v1) v2) v3), ?_⟩
  rw [mapperWrite_shift a0 hm c0 (by simp [hcount]), mapperWrite_shift a1 rfl c1 (by simp [serialWrite, hcount]),
    mapperWrite_shift a2 rfl c2 (by simp [serialWrite, hcount]),
    mapperWrite_shift a3 rfl c3 (by simp [serialWrite, hcount]),
    mapperWrite_fifth a4 rfl c4 (by simp [serialWrite, hcount]), hfull]

theorem mirrorOf_eq (n : BitVec 5) :
    mirrorOf (n.extractLsb' 0 2) =
      (if n.toNat % 4 = 0 then .singleLower else if n.toNat % 4 = 1 then .singleUpper
        else if n.toNat % 4 = 2 then .vertical else .horizontal) ∧
    mirrorOffsets (mirrorOf (n.extractLsb' 0 2)) =
      (if n.toNat % 4 = 0 then #v[0, 0, 0, 0] else if n.toNat % 4 = 1 then #v[0x400, 0x400, 0x400, 0x400]
        else if n.toNat % 4 = 2 then #v[0, 0x400, 0, 0x400] else #v[0, 0, 0x400, 0x400]) := by
  revert n
  decide

/-- The mirroring of control register `n`. -/
def mirroringOf (n : BitVec 5) : Mirroring :=
  if n.toNat % 4 = 0 then .singleLower else if n.toNat % 4 = 1 then .singleUpper
  else if n.toNat % 4 = 2 then .vertical else .horizontal

def ntOffsetOf (n : BitVec 5) : Vector Nat 4 :=
  if n.toNat % 4 = 0 then #v[0, 0, 0, 0] else if n.toNat % 4 = 1 then #v[0x400, 0x400, 0x400, 0x400]
  else if n.toNat % 4 = 2 then #v[0, 0x400, 0, 0x400] else #v[0, 0, 0x400, 0x400]

theorem setMirroring_control (n : BitVec 5) (c : Cart) :
    setMirroring (mirrorOf (n.extractLsb' 0 2)) c = { c with mirroring := mirroringOf n, ntOffset := ntOffsetOf n } := by
  rw [setMirroring, (mirrorOf_eq n).2, (mirrorOf_eq n).1]
  rfl

/-- The full shift register at the fifth address, by its region. -/
theorem apply001_control {a : Word} {r q : Mapper001} {c : Cart} (h : a.toNat / 0x2000 = 4)
    (hq : q = { r.cleared with control := r.shift }) (hunits : 0 < c.prgUnits) :
    apply001 a r c = { c with
      mapper := .m001 q, mirroring := mirroringOf r.shift, ntOffset := ntOffsetOf r.shift,
      prgOff := prgWindow001 c q, chrOff := chrWindow001 c q } := by
  have happly : apply001 a r c = setChrBanks001 { r.cleared with control := r.shift }
      (setPrgBanks001 { r.cleared with control := r.shift } (setMirroring (mirrorOf (r.shift.extractLsb' 0 2))
        { c with mapper := .m001 { r.cleared with control := r.shift } })) :=
    if_pos ((regionOf_eq 0).mpr (by rw [h]; rfl))
  rw [happly, ← hq, setMirroring_control, setPrgBanks001_eq q (by exact hunits), setChrBanks001_eq]
  rfl

theorem apply001_chrBank0 {a : Word} {r q : Mapper001} (c : Cart) (h : a.toNat / 0x2000 = 5)
    (hq : q = { r.cleared with chrBank0 := r.shift }) :
    apply001 a r c = { c with mapper := .m001 q, chrOff := chrWindow001 c q } := by
  have happly : apply001 a r c = setChrBanks001 { r.cleared with chrBank0 := r.shift }
      { c with mapper := .m001 { r.cleared with chrBank0 := r.shift } } :=
    (if_neg (mt (regionOf_eq 0).mp (by rw [h]; decide))).trans (if_pos ((regionOf_eq 1).mpr (by rw [h]; rfl)))
  rw [happly, ← hq, setChrBanks001_eq]
  rfl

theorem apply001_chrBank1 {a : Word} {r q : Mapper001} (c : Cart) (h : a.toNat / 0x2000 = 6)
    (hq : q = { r.cleared with chrBank1 := r.shift }) :
    apply001 a r c = { c with mapper := .m001 q, chrOff := chrWindow001 c q } := by
  have happly : apply001 a r c = setChrBanks001 { r.cleared with chrBank1 := r.shift }
      { c with mapper := .m001 { r.cleared with chrBank1 := r.shift } } :=
    (if_neg (mt (regionOf_eq 0).mp (by rw [h]; decide))).trans
      ((if_neg (mt (regionOf_eq 1).mp (by rw [h]; decide))).trans (if_pos ((regionOf_eq 2).mpr (by rw [h]; rfl))))
  rw [happly, ← hq, setChrBanks001_eq]
  rfl

theorem apply001_prgBank {a : Word} {r q : Mapper001} {c : Cart} (h : a.toNat / 0x2000 = 7)
    (hq : q = { r.cleared with prgBank := r.shift }) (hunits : 0 < c.prgUnits) :
    apply001 a r c = { c with mapper := .m001 q, prgOff := prgWindow001 c q } := by
  have happly : apply001 a r c = setPrgBanks001 { r.cleared with prgBank := r.shift }
      { c with mapper := .m001 { r.cleared with prgBank := r.shift } } :=
    (if_neg (mt (regionOf_eq 0).mp (by rw [h]; decide))).trans
      ((if_neg (mt (regionOf_eq 1).mp (by rw [h]; decide))).trans (if_neg (mt (regionOf_eq 2).mp (by rw [h]; decide))))
  rw [happly, ← hq, setPrgBanks001_eq q (by exact hunits)]
  rfl

end Sys2Proof.Machine
end

section
/-! The serial port of mapper 001, O52. -/

section

open Sys2Proof Sys2Proof.Machine

/-- Settles O52: the writes by `mapperWrite_five`, the windows by `setPrgBanks001_eq` and `setChrBanks001_eq`. -/
theorem serialWritesSetThePrgBank : Obligations.SerialWritesSetThePrgBank := by
  unfold Obligations.SerialWritesSetThePrgBank
  intro c r a0 a1 a2 a3 a4 v0 v1 v2 v3 v4 n hm hshift hcount ha4 hunits hclear hbits region
  obtain ⟨m, hwrites⟩ := mapperWrite_five a0 a1 a2 a3 a4 hm hshift hcount hclear hbits
  rw [hwrites]
  have hregion : region = 4 ∨ region = 5 ∨ region = 6 ∨ region = 7 := by omega
  have hr : a4.toNat / 0x2000 = region := rfl
  clear_value region
  refine ⟨?_, fun a v e q he hv => mapperWrite_clear a he hv⟩
  have hclean : ∀ r' : Mapper001, { r' with shift := r.shift, shiftCount := r.shiftCount } =
      { r' with shift := 0, shiftCount := 0 } := fun r' => by rw [hshift, hcount]
  rcases hregion with rfl | rfl | rfl | rfl
  · exact apply001_control hr (hclean { r with control := n }) hunits
  · exact apply001_chrBank0 _ hr (hclean { r with chrBank0 := n })
  · exact apply001_chrBank1 _ hr (hclean { r with chrBank1 := n })
  · exact apply001_prgBank hr (hclean { r with prgBank := n }) hunits

end
end

section
/-! SUPPORT. The cartridge at load (rules R342, R349). -/

namespace Sys2Proof.Machine

/-- The windows of the load table: first and last 16 KiB bank, or 32 KiB bank 0. -/
def loadPrg (id : MapperId) (prgUnits : Nat) : Vector Nat 4 :=
  let last := (prgUnits - 1) * 16384
  if id ∈ [.m001, .m002, .m004] then #v[0, 8192, last, last + 8192]
  else Vector.ofFn fun k => k.val % (2 * prgUnits) * 8192

def loadChr : Vector Nat 8 := Vector.ofFn fun k => k.val * 1024

theorem prgWindow16_load {c : Cart} (h : 0 < c.prgUnits) :
    prgWindow16 c 0 (c.prgUnits - 1) =
      #v[0, 8192, (c.prgUnits - 1) * 16384, (c.prgUnits - 1) * 16384 + 8192] := by
  have hlow : 0 % c.prgUnits * 16384 = 0 := (congrArg (· * 16384) (Nat.zero_mod _)).trans (Nat.zero_mul _)
  have hhigh : (c.prgUnits - 1) % c.prgUnits * 16384 = (c.prgUnits - 1) * 16384 :=
    congrArg (· * 16384) (Nat.mod_eq_of_lt (Nat.sub_one_lt_of_lt h))
  exact congrArg₂ (fun l h => #v[l, l + 8192, h, h + 8192]) hlow hhigh

theorem prgWindow32_load (c : Cart) :
    prgWindow32 c 0 = Vector.ofFn fun k => k.val % (2 * c.prgUnits) * 8192 := by
  simp only [prgWindow32, Nat.mul_zero, Nat.zero_add]

/-- The first eight CHR banks are present. -/
theorem chrBank_mod (c : Cart) {k : Nat} (hk : k < 8) : k % (8 * max c.chrUnits 1) = k := Nat.mod_eq_of_lt (by omega)

theorem chrWindow8_load (c : Cart) : chrWindow8 c 0 = loadChr := by
  unfold chrWindow8 loadChr
  refine congrArg Vector.ofFn (funext fun k => ?_)
  rw [Nat.mul_zero, Nat.zero_add, chrBank_mod c k.isLt]

/-- The bank numbers 0, 1, last but one and last, as offsets. -/
theorem loadBankNumbers {u : Nat} (h : 0 < u) :
    0 % (2 * u) * 8192 = 0 ∧ 1 % (2 * u) * 8192 = 8192 ∧ (2 * u - 1 - 1) % (2 * u) * 8192 = (u - 1) * 16384 ∧
    (2 * u - 1) % (2 * u) * 8192 = (u - 1) * 16384 + 8192 := by
  rw [Nat.zero_mod, Nat.mod_eq_of_lt (by omega : 1 < 2 * u), Nat.mod_eq_of_lt (by omega : 2 * u - 1 - 1 < 2 * u),
    Nat.mod_eq_of_lt (by omega : 2 * u - 1 < 2 * u)]
  omega

/-- The windows of `UpdateBanks()` with the bank registers of the load table. -/
theorem updateBanks004_load {c : Cart} {r : Mapper004} (hr : Mapper.m004 r = loadMapper .m004) (h : 0 < c.prgUnits) :
    updateBanks004 r c = { c with prgOff := prgWindow16 c 0 (c.prgUnits - 1), chrOff := loadChr } := by
  obtain rfl : r = ⟨0, #v[0, 2, 4, 5, 6, 7, 0, 1], 0, 0, false, false⟩ := Mapper.m004.inj hr
  have hprg : (Vector.ofFn fun k : Fin 4 =>
      (prgBanks004 c ⟨0, #v[0, 2, 4, 5, 6, 7, 0, 1], 0, 0, false, false⟩)[k] % (2 * c.prgUnits) * 8192) =
      prgWindow16 c 0 (c.prgUnits - 1) := by
    rw [prgWindow16_load h]
    refine Vector.ext fun i hi => ?_
    rw [Vector.getElem_ofFn]
    obtain ⟨h0, h1, h2, h3⟩ := loadBankNumbers h
    interval_cases i
    exacts [h0, h1, h2, h3]
  have hchr : (Vector.ofFn fun k : Fin 8 =>
      chrSlot004 ⟨0, #v[0, 2, 4, 5, 6, 7, 0, 1], 0, 0, false, false⟩ k % (8 * max c.chrUnits 1) * 1024) = loadChr := by
    have hslot : ∀ k : Fin 8, chrSlot004 ⟨0, #v[0, 2, 4, 5, 6, 7, 0, 1], 0, 0, false, false⟩ k = k.val := by decide
    refine congrArg Vector.ofFn (funext fun k => ?_)
    rw [hslot, chrBank_mod c k.isLt]
  rw [updateBanks004_eq _ h, hprg, hchr]

/-- `loadBanks` of a cartridge with the registers of the load table. -/
theorem loadBanks_eq {c : Cart} {id : MapperId} (hm : c.mapper = loadMapper id) (h : 0 < c.prgUnits) :
    loadBanks c = { c with prgOff := loadPrg id c.prgUnits, chrOff := loadChr } := by
  have wide : id ∉ [.m001, .m002, .m004] →
      setChr8 0 (setPrg32 0 c) = { c with prgOff := loadPrg id c.prgUnits, chrOff := loadChr } := fun hid => by
    rw [loadPrg, if_neg hid, ← prgWindow32_load, ← chrWindow8_load c]
    exact (congrArg (setChr8 0) (setPrg32_eq 0 c)).trans (setChr8_eq ..)
  have narrow : id ∈ [.m001, .m002, .m004] → loadPrg id c.prgUnits = prgWindow16 c 0 (c.prgUnits - 1) := fun hid => by
    rw [prgWindow16_load h, loadPrg, if_pos hid]
  cases id with
  | m000 | m003 | m007 | m011 | m066 =>
    rw [← wide (by decide), loadBanks, hm]
    rfl
  | m001 =>
    have hchr : chrWindow001 c ⟨0, 0, 0x0C, 0, 0, 0⟩ = loadChr := chrWindow8_load c
    have hbanks : loadBanks c = setChrBanks001 ⟨0, 0, 0x0C, 0, 0, 0⟩ (setPrgBanks001 ⟨0, 0, 0x0C, 0, 0, 0⟩ c) := by
      rw [loadBanks, hm]
      rfl
    rw [hbanks, narrow (by decide), setPrgBanks001_eq _ h, setChrBanks001_eq, ← hchr]
    rfl
  | m002 =>
    have hbanks : loadBanks c = setChr8 0 (setPrg16 1 (-1) (setPrg16 0 0 c)) := by
      rw [loadBanks, hm]
      rfl
    rw [hbanks, narrow (by decide), ← chrWindow8_load c]
    exact (congrArg (setChr8 0) (setPrg16_last 0 h)).trans (setChr8_eq ..)
  | m004 =>
    rw [narrow (by decide), ← updateBanks004_load rfl h, loadBanks, hm]
    rfl

/-- The cartridge before its banks are set. -/
def bareCart (p : Parameters) : Cart :=
  setMirroring p.mirroring
    { format := p.format, tvSystem := p.tvSystem, prgUnits := p.prgUnits, chrUnits := p.chrUnits,
      prgRamUnits := p.prgRamUnits, mirroring := p.mirroring, prgRom := p.prgRom,
      prgRam := p.prgRamInit, chr := if p.chrUnits = 0 then p.chrRamInit else p.chrRom,
      ntRam := p.ntRamInit, ntOffset := #v[0, 0, 0, 0], prgOff := #v[0, 0, 0, 0],
      chrOff := #v[0, 0, 0, 0, 0, 0, 0, 0], mapper := loadMapper p.mapperId }

theorem loadCart_eq {p : Parameters} (h : 0 < p.prgUnits) :
    loadCart p = { bareCart p with prgOff := loadPrg p.mapperId p.prgUnits, chrOff := loadChr } :=
  loadBanks_eq (c := bareCart p) rfl h

/-- Parameters that load have a PRG bank and memories of their sizes (rule R342). -/
theorem loadError_none {p : Parameters} (h : loadError p = none) : 0 < p.prgUnits ∧ memoriesGiven p = true := by
  unfold loadError at h
  split at h
  · cases h
  split at h
  · cases h
  split at h
  · cases h
  split at h
  · cases h
  next hunits =>
    split at h
    · cases h
    split at h
    · next hgiven => exact ⟨Nat.pos_of_ne_zero hunits, (Bool.and_eq_true_iff.mp hgiven).2⟩
    · cases h

theorem memoriesGiven_iff (p : Parameters) :
    memoriesGiven p = true ↔
      storeOk (p.prgUnits * 16384) p.prgRom ∧ storeOk (p.chrUnits * 8192) p.chrRom ∧ storeOk ramSize p.ramInit ∧
      storeOk oamSize p.oamInit ∧ storeOk paletteSize p.paletteInit ∧ storeOk (max p.prgRamUnits 1 * 8192) p.prgRamInit ∧
      storeOk chrRamSize p.chrRamInit ∧ storeOk ntRamSize p.ntRamInit ∧ storeOk pixelCount p.pixelsInit ∧
      storeOk systemPaletteSize p.systemPalette := by
  simp only [memoriesGiven, Bool.and_eq_true, and_assoc]

theorem start_ok {p : Parameters} {s : State} (h : start p = .ok s) : loadError p = none ∧ s = hostReset (powerOn p) := by
  unfold start at h
  cases hl : loadError p with
  | none =>
    rw [hl] at h
    exact ⟨rfl, (Except.ok.inj h).symm⟩
  | some e =>
    rw [hl] at h
    cases h

/-- The offsets of the load table are those of banks present. -/
theorem loadPrg_ok (id : MapperId) {u : Nat} (h : 0 < u) (i : Fin 4) :
    (loadPrg id u)[i] + 8192 ≤ u * 16384 ∧ (loadPrg id u)[i] % 8192 = 0 := by
  by_cases hid : id ∈ [.m001, .m002, .m004]
  · have hwindows : loadPrg id u = #v[0, 8192, (u - 1) * 16384, (u - 1) * 16384 + 8192] := if_pos hid
    have hoffsets : ∀ o, (o = 0 ∨ o = 8192 ∨ o = (u - 1) * 16384 ∨ o = (u - 1) * 16384 + 8192) →
        o + 8192 ≤ u * 16384 ∧ o % 8192 = 0 := fun o ho => by omega
    rw [hwindows]
    fin_cases i
    · exact hoffsets _ (.inl rfl)
    · exact hoffsets _ (.inr (.inl rfl))
    · exact hoffsets _ (.inr (.inr (.inl rfl)))
    · exact hoffsets _ (.inr (.inr (.inr rfl)))
  · have hwindows : loadPrg id u = Vector.ofFn fun k => k.val % (2 * u) * 8192 := if_neg hid
    have hlt := Nat.mod_lt i.val (by omega : 0 < 2 * u)
    rw [hwindows, Fin.getElem_fin, Vector.getElem_ofFn]
    dsimp only
    omega

theorem loadChr_ok (c : Cart) (i : Fin 8) : loadChr[i] + 1024 ≤ chrSize c ∧ loadChr[i] % 1024 = 0 := by
  rw [loadChr, Fin.getElem_fin, Vector.getElem_ofFn, chrSize]
  dsimp only
  omega

theorem loadCart_bankInv {p : Parameters} (h : 0 < p.prgUnits) : BankInv (loadCart p) := by
  rw [loadCart_eq h]
  refine ⟨h, fun i => loadPrg_ok p.mapperId h i, fun i => loadChr_ok _ i, rfl, ?_⟩
  change shiftCountOk (loadMapper p.mapperId)
  cases p.mapperId with
  | m001 => exact Nat.zero_le 4
  | _ => trivial

theorem loadCart_memory {p : Parameters} (h : 0 < p.prgUnits) (hgiven : memoriesGiven p = true) :
    CartMemory (loadCart p) := by
  obtain ⟨hprgRom, hchrRom, -, -, -, hprgRam, hchrRam, hntRam, -, -⟩ := (memoriesGiven_iff p).mp hgiven
  rw [loadCart_eq h]
  refine ⟨hntRam, hprgRom, hprgRam, ?_⟩
  change storeOk (max p.chrUnits 1 * 8192) (if p.chrUnits = 0 then p.chrRamInit else p.chrRom) = true
  split
  · next hzero =>
    rw [hzero]
    exact hchrRam
  · next hsome =>
    rw [Nat.max_eq_left (Nat.pos_of_ne_zero hsome)]
    exact hchrRom

/-- The machine right after power-on and one `Reset()`. -/
theorem started_machineInv {p : Parameters} (h : 0 < p.prgUnits) (hgiven : memoriesGiven p = true) :
    MachineInv (hostReset (powerOn p)) := by
  obtain ⟨-, -, hram, hoam, hpalette, -, -, -, hpixels, -⟩ := (memoriesGiven_iff p).mp hgiven
  rw [hostReset_running rfl]
  exact {
    status := show (0x24 : Byte) &&& 0x30 = 0x20 by decide
    memory := (memoryInv_iff _).mpr ⟨⟨hram, hpalette, hoam, hpixels⟩, loadCart_memory h hgiven⟩
    banks := loadCart_bankInv h
    position := ⟨rfl, Nat.zero_le _, fun _ => rfl, Nat.zero_le 8⟩
    cycles := ⟨show 7 ≤ 520 by decide, fun h => nomatch h⟩ }

end Sys2Proof.Machine
end

section
/-! Every loaded machine, O59. -/

section

open Sys2Proof Sys2Proof.Machine

/-- Settles O59: the invariant by `started_machineInv`, the cartridge by `loadCart_eq`. -/
theorem everyLoadedMachineMeetsTheInvariant : Obligations.EveryLoadedMachineMeetsTheInvariant := by
  unfold Obligations.EveryLoadedMachineMeetsTheInvariant
  intro p s hstart
  obtain ⟨hload, rfl⟩ := start_ok hstart
  obtain ⟨hunits, hgiven⟩ := loadError_none hload
  have hrunning : (hostReset (powerOn p)).halted = none := by rw [hostReset_running rfl]; rfl
  have hcart : (hostReset (powerOn p)).cart =
      { bareCart p with prgOff := loadPrg p.mapperId p.prgUnits, chrOff := loadChr } := by
    rw [hostReset_running rfl]
    exact loadCart_eq hunits
  rw [hcart]
  refine ⟨⟨started_machineInv hunits hgiven, hrunning⟩, ⟨rfl, rfl, rfl, rfl⟩, ?_, rfl, rfl,
    fun h => ?_, fun h => ?_⟩
  · change loadMapper p.mapperId = _
    cases p.mapperId <;> rfl
  · change mirrorOffsets p.mirroring = _
    rw [h]
    rfl
  · change mirrorOffsets p.mirroring = _
    rw [h]
    rfl

end
end
